-- ==== Sys2Proof/Word.lean ====
section
/-! DEFINITION. The two word types of the engine: every value of the datapath is an unsigned 32-bit word
(00_scope.md R9, R12) and every buffer cell is a byte (10_state.md R38). Bit k is bit k of the manual (R11). -/

namespace Sys2Proof

/-- A 32-bit word: bus data, accumulator, digest word, message word (R9). -/
abbrev Word := BitVec 32

/-- A byte of the message buffer (R38). -/
abbrev Byte := BitVec 8

end Sys2Proof
end

