-- ==== Sys2Proof/Config.lean ====
section
/-! DEFINITION. What an implementation fixes and what the manual leaves open.

* BUF_BYTES is the one OPEN parameter a rule depends on: a multiple of 64 with 64 <= BUF_BYTES <= 4194304
  (00_scope.md R10, 92_eei_decisions.md D4). It is held as the index of the last block slot, NBLK - 1, so that every
  value of the type is a legal configuration and no other one can be written down.
* ADDR_W is the width of the bus offset, at least ceil(log2(0x1000 + BUF_BYTES)) (00_scope.md R10, 92 D3). It is held as the
  bits an engine has beyond that least width, for the same reason.
* `freeByte` and `freeWord` are Draw8() and Draw32() (R13): the values the manual leaves free, one for each value of
  the draw counter that State carries. They have no body, so nothing can be proved of what they are.
The constants K, s, IV and ID stand in Machine/Constants.lean. -/

namespace Sys2Proof

/-- The configuration of one engine (R10, R46). -/
structure Config where
  /-- NBLK - 1, the greatest block slot number (R10). -/
  lastSlot : Fin 65536
  /-- The bits of ADDR_W beyond the least width that reaches the whole BUF window (R10). -/
  spareAddrBits : Nat
  deriving DecidableEq, Repr

/-- BUF_BYTES, the size of the message buffer in bytes (R10). -/
def Config.bufBytes (c : Config) : Nat := 64 * (c.lastSlot.val + 1)

/-- `ceil(log2(n))`, for n >= 2: the least k with n <= 2^k (R10, R12). -/
def ceilLog2 (n : Nat) : Nat := Nat.log2 (n - 1) + 1

/-- ADDR_W, the width of the bus offset in bits (R10): the aperture is the offsets 0 .. 2^ADDR_W - 1 (R60). -/
def Config.addrW (c : Config) : Nat := ceilLog2 (0x1000 + c.bufBytes) + c.spareAddrBits

/-- The reference configuration, BUF_BYTES = 4096 and ADDR_W = 13 (R10, D4). -/
def Config.reference : Config := { lastSlot := 63, spareAddrBits := 0 }

/-- Draw8(): the value of the n-th draw, as a byte (R13, R78). Assumption 4. -/
opaque Config.freeByte : Nat → BitVec 8

/-- Draw32(): the value of the n-th draw, as a word (R13, R34, R35, R68). Assumption 4. -/
opaque Config.freeWord : Nat → BitVec 32

end Sys2Proof
end

