-- ==== Sys2Proof/Machine/Constants.lean ====
section
/-! DEFINITION. The constants of the engine, configuration and not state (10_state.md R46): the identity word, the initial
accumulator values, and the K and s tables. The manual marks the two tables as supplied from general knowledge
(93_implementation_defined.md G1, G2): Assumption 9, PRESUMED. -/

namespace Sys2Proof.Machine

/-- Four words: the accumulators A, B, C, D, the digest words 0..3, or the working registers a, b, c, d. -/
structure Quad where
  a : Word
  b : Word
  c : Word
  d : Word
  deriving DecidableEq, Repr

/-- The identity word, R23. -/
def idValue : Word := 0x4D443501#32

/-- The initial accumulator values, R150. -/
def iv : Quad := { a := 0x67452301#32, b := 0xEFCDAB89#32, c := 0x98BADCFE#32, d := 0x10325476#32 }

/-- K[0..15], R170. -/
def kTable0 : List Word := [
  0xD76AA478#32, 0xE8C7B756#32, 0x242070DB#32, 0xC1BDCEEE#32,
  0xF57C0FAF#32, 0x4787C62A#32, 0xA8304613#32, 0xFD469501#32,
  0x698098D8#32, 0x8B44F7AF#32, 0xFFFF5BB1#32, 0x895CD7BE#32,
  0x6B901122#32, 0xFD987193#32, 0xA679438E#32, 0x49B40821#32]

/-- K[16..31], R170. -/
def kTable1 : List Word := [
  0xF61E2562#32, 0xC040B340#32, 0x265E5A51#32, 0xE9B6C7AA#32,
  0xD62F105D#32, 0x02441453#32, 0xD8A1E681#32, 0xE7D3FBC8#32,
  0x21E1CDE6#32, 0xC33707D6#32, 0xF4D50D87#32, 0x455A14ED#32,
  0xA9E3E905#32, 0xFCEFA3F8#32, 0x676F02D9#32, 0x8D2A4C8A#32]

/-- K[32..47], R170. -/
def kTable2 : List Word := [
  0xFFFA3942#32, 0x8771F681#32, 0x6D9D6122#32, 0xFDE5380C#32,
  0xA4BEEA44#32, 0x4BDECFA9#32, 0xF6BB4B60#32, 0xBEBFBC70#32,
  0x289B7EC6#32, 0xEAA127FA#32, 0xD4EF3085#32, 0x04881D05#32,
  0xD9D4D039#32, 0xE6DB99E5#32, 0x1FA27CF8#32, 0xC4AC5665#32]

/-- K[48..63], R170. -/
def kTable3 : List Word := [
  0xF4292244#32, 0x432AFF97#32, 0xAB9423A7#32, 0xFC93A039#32,
  0x655B59C3#32, 0x8F0CCC92#32, 0xFFEFF47D#32, 0x85845DD1#32,
  0x6FA87E4F#32, 0xFE2CE6E0#32, 0xA3014314#32, 0x4E0811A1#32,
  0xF7537E82#32, 0xBD3AF235#32, 0x2AD7D2BB#32, 0xEB86D391#32]

/-- The additive constants K[0..63], R170. -/
def kTable : List Word := kTable0 ++ kTable1 ++ kTable2 ++ kTable3

/-- K[i], the additive constant of round i (R170); read only for i < 64. -/
def kConst (i : Nat) : Word := kTable.getD i 0#32

/-- The four rotation amounts of each group of 16 rounds, R171. -/
def sTable : List (List Nat) := [[7, 12, 17, 22], [5, 9, 14, 20], [4, 11, 16, 23], [6, 10, 15, 21]]

/-- s[i], the rotation amount of round i: row i div 16, with period 4 (R171); read only for i < 64. -/
def sAmount (i : Nat) : Nat := (sTable.getD (i / 16) []).getD (i % 4) 0

end Sys2Proof.Machine
end

