-- ==== Sys2Proof/Syntax.lean ====
section
/-! DEFINITION. The commands of the engine, one constructor per row of spec/opcode_table.json (30_encoding.md R91, R94).
The only operand in a command word is BLK of COMPRESS, an unsigned block slot number (R92); it is an index, never
added to or masked as a word, so it is a natural number here and WellFormed.lean bounds it to its 16 bits. -/

namespace Sys2Proof

/-- A command: what the manual calls the engine's instruction (R16, R99). -/
inductive Instr where
  /-- NOP, 40_commands.md R118. -/
  | nop
  /-- DIGEST, 44_digest.md R200. -/
  | digest
  /-- PAD, 41_padding.md R134. -/
  | pad
  /-- INIT, 42_accumulator.md R151. -/
  | init
  /-- COMPRESS blk, 43_compression.md R179. -/
  | compress (blk : Nat)
  /-- FINAL, 42_accumulator.md R154. -/
  | final
  deriving DecidableEq, Repr

end Sys2Proof
end

