-- ==== Sys2Proof/Machine/State.lean ====
section
/-! DEFINITION. The state of the engine and of what steps it (10_state.md R20-R45), as plain data.

The first block of fields is the manual's own state (R20). The second block is the model's: the configuration the
machine carries (Assumption 1), the host's bus transactions still to come (Assumption 2), which agent moves next
(Assumption 3), the responses the host has received (Assumption 8) and the draw counter (Assumption 4). -/

namespace Sys2Proof.Machine

/-- STATUS.ERR, R29 and R221. The codes 4..15 are reserved and never produced, so they have no constructor. -/
inductive ErrCode where
  /-- 0: the command was accepted. -/
  | none
  /-- 1: reserved opcode, or a reserved field not zero. -/
  | badcmd
  /-- 2: PAD or DIGEST with 64 * chunkCount(LEN) > BUF_BYTES. -/
  | len
  /-- 3: COMPRESS with 64 * (BLK + 1) > BUF_BYTES. -/
  | blk
  deriving DecidableEq, Repr

/-- One line of the host's script: a bus transaction of R65, or the repeated read of R98. -/
inductive Line where
  /-- `Read(off, size)`. -/
  | read (off size : Nat)
  /-- `Write(off, size, data)`. -/
  | write (off size : Nat) (data : Word)
  /-- `POLL off, mask, val`: `Read(off, 4)` again and again until `(data & mask) == val` (R98). -/
  | poll (off : Nat) (mask val : Word)
  deriving DecidableEq, Repr

/-- Who takes a step: the two agents of R17, or the reset input (rst_n low during the step, R250). -/
inductive Turn where
  | host
  | engine
  | reset
  deriving DecidableEq, Repr

/-- The response code of a transaction, R65. -/
inductive Resp where
  | ok
  | err
  deriving DecidableEq, Repr

/-- What the host receives for a transaction: data and code for a read, the code for a write (R65). -/
inductive Response where
  | read (data : Word) (resp : Resp)
  | write (resp : Resp)
  deriving DecidableEq, Repr

/-- The message buffer: the bytes written since reset, addresses strictly rising. A byte that no entry lists has not
been written since reset and holds no value: each read of it is a fresh Draw8() (20_memory.md R78, Assumption 5). -/
abbrev Memory := List Host.Cell

/-- Reasons for which a step stops with a fault: none. "Nothing in this engine is treated as `fault` or `stuck`"
(93_implementation_defined.md, part 2); no accepted command faults (60_exceptions.md R220) and every refused condition
is answered in STATUS or in the bus response, in a next state. Assumption 16. -/
inductive Fault where
  deriving DecidableEq, Repr

/-- Reasons for which the machine refuses an instruction. -/
inductive Refusal where
  /-- Raised only by an arm of exec whose instruction has no meaning yet; no arm does so. Safe. -/
  | notModelled (mnemonic : String)
  deriving DecidableEq, Repr

/-- The machine's state. -/
structure State where
  /-- BUF, the message buffer (R38). -/
  buf : Memory
  /-- ACC[0..3], the accumulators A, B, C, D (R34). -/
  acc : Quad
  /-- DIG[0..3], the output digest (R35). -/
  dig : Quad
  /-- LEN, the message length in bytes (R31). -/
  len : Word
  /-- STATUS.BUSY (R26). -/
  busy : Bool
  /-- STATUS.DONE (R27). -/
  done : Bool
  /-- STATUS.OVR (R28). -/
  ovr : Bool
  /-- STATUS.ERR (R29). -/
  err : ErrCode
  /-- CTRL.IE (R30). -/
  ie : Bool
  /-- PEND, the command accepted and not yet completed (R41). -/
  pend : Option Instr
  /-- The configuration, BUF_BYTES and ADDR_W (R10, R46). The model's own field: no step changes it. -/
  cfg : Config
  /-- The host's transactions still to come, the next one first (R98). The model's own field. -/
  script : List Line
  /-- Who takes the coming steps, the next one first (R17, R226). The model's own field. -/
  turns : List Turn
  /-- The responses the host has received, in issue order (R73). The model's own field. -/
  responses : List Response
  /-- How many draws have been made (R13). The model's own field. -/
  draws : Nat
  deriving DecidableEq, Repr

/-- The state right after reset (R44, R251): the engine's state as the manual gives it, the reference BUF_BYTES, and
nothing for the host or the schedule to do (Assumptions 1, 2, 3, 4, 8). -/
def State.reset : State where
  buf := []
  acc := iv
  dig := { a := 0#32, b := 0#32, c := 0#32, d := 0#32 }
  len := 0#32
  busy := false
  done := false
  ovr := false
  err := .none
  ie := false
  pend := none
  cfg := Config.reference
  script := []
  turns := []
  responses := []
  draws := 0

end Sys2Proof.Machine
end

