-- ==== Sys2Proof/Machine/Flags.lean ====
section
/-! DEFINITION. STATUS, CTRL and the interrupt output: how their fields make up the words software reads, what a write of
STATUS clears, and when `irq` is high (10_state.md R25-R30, R39, R45; 60_exceptions.md R221, R223). The datapath sets
no flag (43_compression.md R181). -/

namespace Sys2Proof.Machine

/-- The code of an error, STATUS bits [7:4] (R29, R221). -/
def ErrCode.code : ErrCode → Nat
  | .none => 0
  | .badcmd => 1
  | .len => 2
  | .blk => 3

/-- The word a read of STATUS returns (R25): `ERR << 4 | OVR << 2 | DONE << 1 | BUSY`; bits 3 and [31:8] are 0. -/
def statusWord (s : State) : Word :=
  BitVec.ofNat 32 s.err.code <<< 4 ||| BitVec.ofNat 32 s.ovr.toNat <<< 2
    ||| BitVec.ofNat 32 s.done.toNat <<< 1 ||| BitVec.ofNat 32 s.busy.toNat

/-- A write of STATUS: DONE and OVR are write-one-to-clear, every other bit is ignored (R25). -/
def State.writeStatus (v : Word) (s : State) : State :=
  { s with done := s.done && !v.getLsbD 1, ovr := s.ovr && !v.getLsbD 2 }

/-- The word a read of CTRL returns: IE in bit 0, bits [31:1] read 0 (R30, R45). -/
def ctrlWord (s : State) : Word := BitVec.ofNat 32 s.ie.toNat

/-- A write of CTRL: bit 0 goes to IE, the reserved bits are ignored (R30, R45). -/
def State.writeCtrl (v : Word) (s : State) : State := { s with ie := v.getLsbD 0 }

/-- The interrupt output, level-sensitive: `irq = STATUS.DONE & CTRL.IE` (R39, R223). -/
def State.irq (s : State) : Bool := s.done && s.ie

/-- An overrun: a write was dropped because the engine is busy (R28, R222). -/
def State.raiseOvr (s : State) : State := { s with ovr := true }

end Sys2Proof.Machine
end

