-- ==== Sys2Proof/Machine/Operands.lean ====
section
/-! DEFINITION. The operands of the commands: the block count and padded length that PAD and DIGEST take from LEN
(41_padding.md R130, R131), the byte order in which values stand in the buffer (20_memory.md R62-R64), and the range
checks made when a command is presented (40_commands.md R111). -/

namespace Sys2Proof.Machine

/-- `ceil(p / q)` on unbounded integers: the least n with n * q >= p (R12). -/
def ceilDiv (p q : Nat) : Nat := (p + (q - 1)) / q

/-- chunkCount(L) = ceil((L + 9) / 64), the number of blocks of the padded message (R130). -/
def chunkCount (l : Nat) : Nat := ceilDiv (l + 9) 64

/-- cap(L), the padded length in bytes (R131). -/
def capOf (l : Nat) : Nat := 64 * chunkCount l

/-- The bit-length of a message of L bytes as the length field holds it, modulo 2^64 (R134, R135). -/
def bitLength (l : Nat) : Nat := (l * 8) % 2 ^ 64

/-- The unsigned number whose bytes are given, least significant first (R62). -/
def leNat : List Byte → Nat
  | [] => 0
  | b :: bs => b.toNat + 256 * leNat bs

/-- A word from its four bytes, least significant first (R62, R64). -/
def leWord (bs : List Byte) : Word := BitVec.ofNat 32 (leNat bs)

/-- The n low bytes of a number, least significant first (R63). -/
def leBytes : Nat → Nat → List Byte
  | 0, _ => []
  | n + 1, v => BitVec.ofNat 8 v :: leBytes n (v / 256)

/-- The range check of PAD and DIGEST, on unbounded integers (R133). -/
def lenCheck (s : State) : ErrCode :=
  if 64 * chunkCount s.len.toNat > s.cfg.bufBytes then .len else .none

/-- The range check of COMPRESS, on unbounded integers (R180). -/
def blkCheck (blk : Nat) (s : State) : ErrCode :=
  if 64 * (blk + 1) > s.cfg.bufBytes then .blk else .none

end Sys2Proof.Machine
end

