-- ==== Sys2Proof/Machine/Ops.lean ====
section
/-! DEFINITION. The shared operations: reading and writing the message buffer, draws, the end of a transaction, and the
life of a command: dropped, rejected, accepted, completed (40_commands.md R110-R115). Rejection, with its code in
STATUS.ERR, is this engine's one way of taking an error; it saves nothing and transfers no control, and there is no
return from it (60_exceptions.md R227, R228). -/

namespace Sys2Proof.Machine

/-! ### The message buffer (20_memory.md R62, R63, R78) -/

/-- The byte at an address, if it has been written since reset. -/
def Memory.read? : Memory → Nat → Option Byte
  | [], _ => none
  | (k, v) :: m, a => if k = a then some v else Memory.read? m a

/-- Write one byte; the addresses stay strictly rising. -/
def Memory.write : Memory → Nat → Byte → Memory
  | [], a, b => [(a, b)]
  | (k, v) :: m, a, b =>
    if a < k then (a, b) :: (k, v) :: m
    else if a = k then (a, b) :: m
    else (k, v) :: Memory.write m a b

/-- Every address of the list is greater than `lo`, and they rise strictly. -/
def Memory.risesFrom : Option Nat → Memory → Bool
  | _, [] => true
  | none, (k, _) :: m => Memory.risesFrom (some k) m
  | some lo, (k, _) :: m => decide (lo < k) && Memory.risesFrom (some k) m

/-- The canonical form: addresses strictly rising. An unlisted address holds no value, so no entry can equal it. -/
def Memory.wf (m : Memory) : Bool := Memory.risesFrom none m

/-- Write bytes at rising addresses from `a`. -/
def Memory.writeBytes : Memory → Nat → List Byte → Memory
  | m, _, [] => m
  | m, a, b :: bs => Memory.writeBytes (Memory.write m a b) (a + 1) bs

/-- `MemWrite(addr, n, v)`: n bytes of v, byte `addr` receiving v[7:0] (R63). -/
def Memory.memWrite (m : Memory) (a n v : Nat) : Memory := Memory.writeBytes m a (leBytes n v)

/-- Read one byte, with `n` draws already made: the byte written last, or a fresh draw (R78). The second component is
the number of draws made after the read. -/
def Memory.readByte (m : Memory) (n a : Nat) : Byte × Nat :=
  match Memory.read? m a with
  | some b => (b, n)
  | none => (Config.freeByte n, n + 1)

/-- Read k bytes at rising addresses from `a`. -/
def Memory.readBytes (m : Memory) : Nat → Nat → Nat → List Byte × Nat
  | n, _, 0 => ([], n)
  | n, a, k + 1 =>
    let b := Memory.readByte m n a
    let bs := Memory.readBytes m b.2 (a + 1) k
    (b.1 :: bs.1, bs.2)

/-- `MemRead(addr, 4)` as a word, byte `addr` in bits [7:0] (R62, R64). -/
def Memory.readWord (m : Memory) (n a : Nat) : Word × Nat :=
  let bs := Memory.readBytes m n a 4
  (leWord bs.1, bs.2)

/-- k words at rising addresses from `a`. -/
def Memory.readWords (m : Memory) : Nat → Nat → Nat → List Word × Nat
  | n, _, 0 => ([], n)
  | n, a, k + 1 =>
    let w := Memory.readWord m n a
    let ws := Memory.readWords m w.2 (a + 4) k
    (w.1 :: ws.1, ws.2)

/-- The message words M[0..15] of a block slot: `M[j] = MemRead(64 slot + 4j, 4)` (43_compression.md R178).
Irreducible, so that Lean does not unroll 64 byte reads unasked. -/
@[irreducible] def Memory.readBlock (m : Memory) (n slot : Nat) : List Word × Nat := Memory.readWords m n (64 * slot) 16

/-! ### One field at a time -/

/-- Replace the message buffer. -/
def State.setBuf (m : Memory) (s : State) : State := { s with buf := m }

/-- Replace the accumulators. -/
def State.setAcc (q : Quad) (s : State) : State := { s with acc := q }

/-- Replace the output digest. -/
def State.setDig (q : Quad) (s : State) : State := { s with dig := q }

/-- Replace the message length. -/
def State.setLen (v : Word) (s : State) : State := { s with len := v }

/-- Draws have been made: the counter now stands at `n`. -/
def State.setDraws (n : Nat) (s : State) : State := { s with draws := n }

/-! ### Turns -/

/-- Who takes the next step: the head of `turns`. When the list has run out, the engine while a command runs and the
host otherwise, so that an accepted command completes (R116, Assumption 3). -/
def State.mover (s : State) : Turn :=
  match s.turns with
  | t :: _ => t
  | [] => if s.busy then .engine else .host

/-- One turn has been taken. -/
def State.passTurn (s : State) : State := { s with turns := s.turns.tail }

/-- The next transaction of the script has been answered. -/
def State.answer (r : Response) (s : State) : State :=
  { s with script := s.script.tail, turns := s.turns.tail, responses := s.responses ++ [r] }

/-- A read of a POLL line has been answered and the line goes on (R98). -/
def State.answerAgain (r : Response) (s : State) : State :=
  { s with turns := s.turns.tail, responses := s.responses ++ [r] }

/-! ### The life of a command (40_commands.md) -/

/-- Reject(code), R113. -/
def State.reject (code : ErrCode) (s : State) : State := { s with err := code, done := true }

/-- Accept(d), R114: NOP is done at once (R118), any other command becomes the running one. -/
def State.accept (i : Instr) (s : State) : State :=
  if i = .nop then { s with err := .none, done := true }
  else { s with err := .none, done := false, pend := some i, busy := true }

/-- The part of Complete() that follows the command's effect, R115. -/
def State.finish (s : State) : State := { s with pend := none, busy := false, done := true }

/-- A CMD write of command `i` whose range check gives `code` (R111, after Decode): dropped while busy (R112), rejected
if the check fails, accepted otherwise. Every one of them is answered OK. -/
def State.present (i : Instr) (code : ErrCode) (s : State) : State :=
  (if s.busy then s.raiseOvr
   else if code = .none then s.accept i
   else s.reject code).answer (.write .ok)

/-- Complete(), R115: the effect of the running command, then the end of the command, in one step. -/
def State.complete (effect : State → State) (s : State) : State := (effect s).finish.passTurn

/-- It is the engine's turn and `i` is the running command: the step is the completion of `i` (R115). -/
abbrev State.runs (i : Instr) (s : State) : Prop := s.mover = .engine ∧ s.pend = some i

/-- What a command does in a step (Assumption 12): where it is the running command and the turn is the engine's, it
completes; otherwise its word is presented by a CMD write. -/
def State.command (i : Instr) (code : ErrCode) (effect : State → State) (s : State) : State :=
  if s.runs i then s.complete effect else s.present i code

end Sys2Proof.Machine
end

