-- ==== Sys2Proof/Machine/Accumulator.lean ====
section
/-! DEFINITION. The state accumulator: INIT, the accumulate step, FINAL and the byte order of the digest
(42_accumulator.md R150-R156). -/

namespace Sys2Proof.Machine

/-- InitEffect, R151. -/
def initEffect (s : State) : State := s.setAcc iv

/-- INIT, R151. -/
def execInit (s : State) : Host.Outcome State Fault Refusal :=
  .next (s.command .init .none initEffect)

/-- The accumulate step, each sum modulo 2^32 (R152). -/
def accumulate (acc w : Quad) : Quad :=
  { a := acc.a + w.a, b := acc.b + w.b, c := acc.c + w.c, d := acc.d + w.d }

/-- FinalEffect, R154. -/
def finalEffect (s : State) : State := s.setDig s.acc

/-- FINAL, R154. -/
def execFinal (s : State) : Host.Outcome State Fault Refusal :=
  .next (s.command .final .none finalEffect)

/-- The 16 bytes of a digest: the four words in order, each least significant byte first (R155). -/
def digestBytes (q : Quad) : List Byte :=
  leBytes 4 q.a.toNat ++ leBytes 4 q.b.toNat ++ leBytes 4 q.c.toNat ++ leBytes 4 q.d.toNat

end Sys2Proof.Machine
end

