-- ==== Sys2Proof/Machine/Compression.lean ====
section
/-! DEFINITION. The 64-round digest pipeline: COMPRESS (43_compression.md R172-R183). The working registers live only
inside the computation of one block (10_state.md R42, Assumption 6). -/

namespace Sys2Proof.Machine

/-- `rotl32(x, s)`, for 1 <= s <= 31 (R12). -/
def rotl32 (x : Word) (s : Nat) : Word := (x <<< s) ||| (x >>> (32 - s))

/-- The nonlinear function of round i (R172, R173). -/
def roundF (i : Nat) (b c d : Word) : Word :=
  if i < 16 then (b &&& c) ||| (~~~b &&& d)
  else if i < 32 then (d &&& b) ||| (~~~d &&& c)
  else if i < 48 then b ^^^ c ^^^ d
  else c ^^^ (b ||| ~~~d)

/-- The message index of round i (R174). -/
def msgIndex (i : Nat) : Nat :=
  if i < 16 then i
  else if i < 32 then (5 * i + 1) % 16
  else if i < 48 then (3 * i + 5) % 16
  else (7 * i) % 16

/-- The sum a round rotates (R175). -/
def roundSum (i : Nat) (q : Quad) (m : List Word) : Word :=
  roundF i q.b q.c q.d + q.a + kConst i + m.getD (msgIndex i) 0#32

/-- Round i on the working registers, all four read before any is written (R175). -/
def roundStep (i : Nat) (q : Quad) (m : List Word) : Quad :=
  { a := q.d, b := q.b + rotl32 (roundSum i q m) (sAmount i), c := q.b, d := q.c }

/-- The working registers after the first n rounds of a block, in the order 0, 1, ... (R176). -/
def roundsDone (m : List Word) (q : Quad) : Nat → Quad
  | 0 => q
  | n + 1 => roundStep n (roundsDone m q n) m

/-- CompressBlock: 64 rounds from the accumulators, then the accumulate step (R176, R177). Irreducible, so that Lean
never unrolls the 64 rounds on symbolic words unless a proof unfolds it by name. -/
@[irreducible] def compressBlock (acc : Quad) (m : List Word) : Quad := accumulate acc (roundsDone m acc 64)

/-- CompressEffect(blk), R179: the words are read once, a byte never written being a draw (R178). -/
def compressEffect (blk : Nat) (s : State) : State :=
  (s.setAcc (compressBlock s.acc (s.buf.readBlock s.draws blk).1)).setDraws (s.buf.readBlock s.draws blk).2

/-- COMPRESS blk, R179. -/
def execCompress (blk : Nat) (s : State) : Host.Outcome State Fault Refusal :=
  .next (s.command (.compress blk) (blkCheck blk s) (compressEffect blk))

end Sys2Proof.Machine
end

