-- ==== Sys2Proof/Machine/Padding.lean ====
section
/-! DEFINITION. The message padding controller: PAD (41_padding.md R130-R138). -/

namespace Sys2Proof.Machine

/-- The padding of a message of `l` bytes, in the three steps of R134: the marker, the zero bytes l+1 .. cap-9 (none
when l + 1 > cap - 9), the bit-length in the last 8 bytes. Irreducible, as
compressBlock is. -/
@[irreducible] def Memory.padMessage (m : Memory) (l : Nat) : Memory :=
  let marked := Memory.write m l 0x80#8
  let zeroed := Memory.writeBytes marked (l + 1) (List.replicate (capOf l - 8 - (l + 1)) 0#8)
  Memory.memWrite zeroed (capOf l - 8) 8 (bitLength l)

/-- PadEffect, R134. -/
def padEffect (s : State) : State := s.setBuf (s.buf.padMessage s.len.toNat)

/-- PAD, R134. -/
def execPad (s : State) : Host.Outcome State Fault Refusal :=
  .next (s.command .pad (lenCheck s) padEffect)

end Sys2Proof.Machine
end

