-- ==== Sys2Proof/Machine/Digest.lean ====
section
/-! DEFINITION. The whole-message digest: DIGEST (44_digest.md R200-R207). -/

namespace Sys2Proof.Machine

/-- The block loop: slots 0 .. n-1, each once and in this order (R205). -/
def compressSlots : Nat → State → State
  | 0, s => s
  | n + 1, s => compressEffect n (compressSlots n s)

/-- DigestEffect, R200. -/
def digestEffect (s : State) : State :=
  finalEffect (compressSlots (chunkCount s.len.toNat) (initEffect (padEffect s)))

/-- DIGEST, R200. -/
def execDigest (s : State) : Host.Outcome State Fault Refusal :=
  .next (s.command .digest (lenCheck s) digestEffect)

end Sys2Proof.Machine
end

