-- ==== Sys2Proof/Machine/Nop.lean ====
section
/-! DEFINITION. NOP (40_commands.md R118): completes within its own CMD write, never busy. -/

namespace Sys2Proof.Machine

/-- NOP, R118. It has no Effect (R119) and no range check. -/
def execNop (s : State) : Host.Outcome State Fault Refusal :=
  .next (s.command .nop .none id)

end Sys2Proof.Machine
end

