-- ==== Sys2Proof/Machine/Dispatch.lean ====
section
/-! DEFINITION. One arm per command: its meaning (40_commands.md R119). -/

namespace Sys2Proof.Machine

def exec (i : Instr) (s : State) : Host.Outcome State Fault Refusal :=
  match i with
  | .nop => Sys2Proof.Machine.execNop s
  | .digest => Sys2Proof.Machine.execDigest s
  | .pad => Sys2Proof.Machine.execPad s
  | .init => Sys2Proof.Machine.execInit s
  | .compress blk => Sys2Proof.Machine.execCompress blk s
  | .final => Sys2Proof.Machine.execFinal s

end Sys2Proof.Machine
end

