-- ==== Sys2Proof/WellFormed.lean ====
section
/-! DEFINITION. Which commands have an encoding: the BLK operand of COMPRESS fits its field, 0..65535 (30_encoding.md
R90, R92). Every other command has no operand and is always well formed. Whether the slot EXISTS in the buffer is not
a matter of form: the engine checks it when the command is presented (43_compression.md R180). -/

namespace Sys2Proof

/-- The operand fits its field of the command word (R90, R92). -/
def Instr.wellFormed : Instr → Bool
  | .nop => true
  | .digest => true
  | .pad => true
  | .init => true
  | .compress blk => decide (blk < 65536)
  | .final => true

end Sys2Proof
end

