-- ==== Sys2Proof/Decode.lean ====
section
/-! DEFINITION. The decoder of the 32-bit command word and, after it, the encoder (30_encoding.md R90-R97). Decoding is
total: a word that spells no command is rejected by the name of the field that is wrong; the engine answers all of
these alike, with ERR = BADCMD (40_commands.md R113). -/

namespace Sys2Proof

/-- Why a word spells no command, in the order in which R95 looks. -/
inductive BadCmd where
  /-- RSV, bits [15:8], is not 0 (R93). -/
  | reservedField
  /-- OP is none of 0x00..0x05 (R91). -/
  | reservedOpcode
  /-- BLK is not 0 in a command other than COMPRESS (R93). -/
  | blockField
  deriving DecidableEq, Repr

/-- What R95's Decode returns: a command, or BADCMD with the reason. -/
inductive Decoded where
  | cmd (i : Instr)
  | badcmd (why : BadCmd)
  deriving DecidableEq, Repr

/-- OP, bits [7:0] (R90). -/
def opField (w : Word) : Nat := (w.extractLsb' 0 8).toNat

/-- RSV, bits [15:8] (R90). -/
def rsvField (w : Word) : Nat := (w.extractLsb' 8 8).toNat

/-- BLK, bits [31:16], zero-extended and unscaled (R90, R92). -/
def blkField (w : Word) : Nat := (w.extractLsb' 16 16).toNat

/-- The commands without an operand: their BLK field must be 0 (R93, R95). -/
def plainCommand (i : Instr) (blk : Nat) : Decoded :=
  if blk = 0 then .cmd i else .badcmd .blockField

/-- Decode, R95. -/
def decode (w : Word) : Decoded :=
  if rsvField w ≠ 0 then .badcmd .reservedField
  else if opField w = 0x00 then plainCommand .nop (blkField w)
  else if opField w = 0x01 then plainCommand .digest (blkField w)
  else if opField w = 0x02 then plainCommand .pad (blkField w)
  else if opField w = 0x03 then plainCommand .init (blkField w)
  else if opField w = 0x04 then .cmd (.compress (blkField w))
  else if opField w = 0x05 then plainCommand .final (blkField w)
  else .badcmd .reservedOpcode

/-- The instruction the decoder reads from the table's bits: a command is one 32-bit word, handed to the engine as
bus data with bit 0 of the table in bit 0 of the word (R24, R97); every bit from `nbits` up is 0. -/
def decodeTableWord (nbits w : Nat) : Option Instr :=
  match decode (BitVec.ofNat 32 (w % 2 ^ nbits)) with
  | .cmd i => some i
  | .badcmd _ => none

/-- The OP of each command (R91). -/
def opcode : Instr → Nat
  | .nop => 0x00
  | .digest => 0x01
  | .pad => 0x02
  | .init => 0x03
  | .compress _ => 0x04
  | .final => 0x05

/-- The BLK field of each command: 0 but for COMPRESS (R90, R93). -/
def blkOperand : Instr → Nat
  | .nop => 0
  | .digest => 0
  | .pad => 0
  | .init => 0
  | .compress blk => blk
  | .final => 0

/-- The word of a command: BLK, then RSV = 0, then OP, from bit 31 down (R90, R94). -/
def encode (i : Instr) : Word :=
  (BitVec.ofNat 16 (blkOperand i) ++ (0 : BitVec 8) ++ BitVec.ofNat 8 (opcode i) : BitVec 32)

end Sys2Proof
end

