-- ==== Sys2Proof/Machine/Bus.lean ====
section
/-! DEFINITION. The bus aperture: which register, ROM word or buffer word an offset selects, and what a read and a write
of each does (10_state.md R21-R37, 20_memory.md R60-R71). A write of CMD is not here: it presents a command, which
Fetch.lean hands to the decoder. -/

namespace Sys2Proof.Machine

/-- The four words of a bank, selected by offset: ACC_A..ACC_D and DIGEST0..DIGEST3 (R34, R35). -/
inductive Lane where
  | a
  | b
  | c
  | d
  deriving DecidableEq, Repr

/-- What an offset of the aperture selects (R21, R61). -/
inductive Target where
  | id
  | cmd
  | status
  | ctrl
  | len
  | chunks
  | cap
  | acc (k : Lane)
  | digest (k : Lane)
  | krom (i : Nat)
  | srom (i : Nat)
  | buf (a : Nat)
  deriving DecidableEq, Repr

/-- One word of a bank. -/
def Quad.get (q : Quad) : Lane → Word
  | .a => q.a
  | .b => q.b
  | .c => q.c
  | .d => q.d

/-- Replace one word of a bank. -/
def Quad.set (q : Quad) (k : Lane) (v : Word) : Quad :=
  match k with
  | .a => { q with a := v }
  | .b => { q with b := v }
  | .c => { q with c := v }
  | .d => { q with d := v }

/-- The control and data registers, offsets below 0x100 (R21); the others there are reserved. -/
def registerAt (off : Nat) : Option Target :=
  match off with
  | 0x000 => some .id
  | 0x004 => some .cmd
  | 0x008 => some .status
  | 0x00C => some .ctrl
  | 0x010 => some .len
  | 0x014 => some .chunks
  | 0x018 => some .cap
  | 0x020 => some (.acc .a)
  | 0x024 => some (.acc .b)
  | 0x028 => some (.acc .c)
  | 0x02C => some (.acc .d)
  | 0x030 => some (.digest .a)
  | 0x034 => some (.digest .b)
  | 0x038 => some (.digest .c)
  | 0x03C => some (.digest .d)
  | _ => none

/-- The aperture map, R61: `none` for a reserved or unmapped offset. -/
def regionAt (bufBytes off : Nat) : Option Target :=
  if off < 0x100 then registerAt off
  else if off < 0x200 then some (.krom ((off - 0x100) / 4))
  else if off < 0x300 then some (.srom ((off - 0x200) / 4))
  else if off < 0x1000 then none
  else if off < 0x1000 + bufBytes then some (.buf (off - 0x1000))
  else none

/-- Steps 1 and 2 of R66: `none` where the size is not 4, the offset is not a multiple of 4, or it is reserved or
unmapped. An offset of ADDR_W bits or fewer is in the aperture (R60); a greater one is no offset of the port, and it
selects nothing (Assumption 11). -/
def selectTarget (c : Config) (off size : Nat) : Option Target :=
  if size = 4 ∧ off % 4 = 0 ∧ off < 2 ^ c.addrW then regionAt c.bufBytes off else none

/-- Step 3 of R66: the targets a write may address; the others are RO (R21, R22). -/
def Target.writable : Target → Bool
  | .id => false
  | .cmd => true
  | .status => true
  | .ctrl => true
  | .len => true
  | .chunks => false
  | .cap => false
  | .acc _ => true
  | .digest _ => false
  | .krom _ => false
  | .srom _ => false
  | .buf _ => true

/-- A read that returns its value while idle and Draw32() while busy (R34, R35, R68, R256); the second component is the
number of draws made after the read. -/
def State.readIdle (s : State) (value : Word × Nat) : Word × Nat :=
  if s.busy then (Config.freeWord s.draws, s.draws + 1) else value

/-- The data a read of a target returns, and the number of draws made after it. -/
def State.readTarget (s : State) : Target → Word × Nat
  | .id => (idValue, s.draws)
  | .cmd => (0#32, s.draws)
  | .status => (statusWord s, s.draws)
  | .ctrl => (ctrlWord s, s.draws)
  | .len => (s.len, s.draws)
  | .chunks => (BitVec.ofNat 32 (chunkCount s.len.toNat), s.draws)
  | .cap => (BitVec.ofNat 32 s.cfg.bufBytes, s.draws)
  | .acc k => s.readIdle (s.acc.get k, s.draws)
  | .digest k => s.readIdle (s.dig.get k, s.draws)
  | .krom i => (kConst i, s.draws)
  | .srom i => (BitVec.ofNat 32 (sAmount i), s.draws)
  | .buf a => s.readIdle (s.buf.readWord s.draws a)

/-- A write that is dropped while busy, with OVR set (R22, R28, R31, R34, R69). -/
def State.writeIdle (s written : State) : State := if s.busy then s.raiseOvr else written

/-- What a write of a target does (R25, R30, R31, R34, R69). A write of an RO target never comes here, and a write of
CMD is a command. -/
def State.writeTarget (s : State) (v : Word) : Target → State
  | .status => s.writeStatus v
  | .ctrl => s.writeCtrl v
  | .len => s.writeIdle (s.setLen v)
  | .acc k => s.writeIdle (s.setAcc (s.acc.set k v))
  | .buf a => s.writeIdle (s.setBuf (s.buf.memWrite a 4 v.toNat))
  | .id => s
  | .cmd => s
  | .chunks => s
  | .cap => s
  | .digest _ => s
  | .krom _ => s
  | .srom _ => s

/-- `Read(off, size)`: the data and the response code, and the number of draws made after it; a bus error reads
0x00000000 (R66, R67). -/
def State.busRead (s : State) (off size : Nat) : Word × Resp × Nat :=
  match selectTarget s.cfg off size with
  | some t => ((s.readTarget t).1, .ok, (s.readTarget t).2)
  | none => (0#32, .err, s.draws)

end Sys2Proof.Machine
end

