-- ==== Sys2Proof/Machine/Fetch.lean ====
section
/-! DEFINITION. What the next step is: the reset input, the engine's completion of the running command, or the host's next
transaction (00_scope.md R17). The engine fetches no instructions; its instruction stream is the sequence of command
words the host writes to CMD, one at a time (10_state.md R40), so a fetch here is a CMD write at the head of the
script. -/

namespace Sys2Proof.Machine

/-- What a step has to do. -/
inductive Fetch where
  /-- Run an instruction: present the command just written to CMD, or complete the running one. -/
  | instr (i : Instr)
  /-- No instruction: the next state. -/
  | state (s : State)
  deriving DecidableEq, Repr

/-- The reset input is low during this step (70_reset_and_hazards.md R250, R251): the engine's state takes its reset
values and every buffer byte is unspecified. The configuration, the host's script, the responses it holds and the draw
counter are not the engine's state (Assumption 7). -/
def State.assertReset (s : State) : State :=
  { State.reset with
    cfg := s.cfg, script := s.script, turns := s.turns.tail, responses := s.responses, draws := s.draws }

/-- A read by the host, answered. -/
def State.hostRead (s : State) (off size : Nat) : State :=
  (s.setDraws (s.busRead off size).2.2).answer (.read (s.busRead off size).1 (s.busRead off size).2.1)

/-- One read of a POLL line: the line ends when the masked data has the awaited value (30_encoding.md R98). -/
def State.hostPoll (s : State) (off : Nat) (mask val : Word) : State :=
  if (s.busRead off 4).1 &&& mask = val then s.hostRead off 4
  else (s.setDraws (s.busRead off 4).2.2).answerAgain (.read (s.busRead off 4).1 (s.busRead off 4).2.1)

/-- A CMD write (40_commands.md R111): dropped undecoded while busy (R112), rejected when the word spells no command
(R113), otherwise the presentation of the command it spells. -/
def State.cmdWrite (s : State) (w : Word) : Fetch :=
  if s.busy then .state (s.raiseOvr.answer (.write .ok))
  else
    match decode w with
    | .cmd i => .instr i
    | .badcmd _ => .state ((s.reject .badcmd).answer (.write .ok))

/-- A write by the host (20_memory.md R66): a bus error changes nothing (R67). -/
def State.hostWrite (s : State) (off size : Nat) (v : Word) : Fetch :=
  match selectTarget s.cfg off size with
  | none => .state (s.answer (.write .err))
  | some t =>
    if t = .cmd then s.cmdWrite v
    else if t.writable then .state ((s.writeTarget v t).answer (.write .ok))
    else .state (s.answer (.write .err))

/-- The host's turn; with no transaction left the turn passes (Assumption 10). -/
def State.hostTurn (s : State) : Fetch :=
  match s.script with
  | [] => .state s.passTurn
  | .read off size :: _ => .state (s.hostRead off size)
  | .poll off mask val :: _ => .state (s.hostPoll off mask val)
  | .write off size v :: _ => s.hostWrite off size v

/-- The engine's turn: complete the running command; with none the turn passes (R115, Assumption 10). -/
def State.engineTurn (s : State) : Fetch :=
  match s.pend with
  | some i => .instr i
  | none => .state s.passTurn

/-- What the next step is. -/
def State.fetch (s : State) : Fetch :=
  match s.mover with
  | .reset => .state s.assertReset
  | .engine => s.engineTurn
  | .host => s.hostTurn

end Sys2Proof.Machine
end

