-- ==== Sys2Proof/Machine/Step.lean ====
section
/-! DEFINITION. One step of the machine: one bus transaction of the host, one completion of the engine, or one step with
the reset input low (00_scope.md R17). -/

namespace Sys2Proof.Machine

/-- One step. -/
def step (s : State) : Host.Outcome State Fault Refusal :=
  match s.fetch with
  | .instr i => exec i s
  | .state s' => .next s'

/-- `s` with the instruction of the table's bits placed where the next step takes one from: a CMD write of its word at
the head of the host's script, on the host's turn (10_state.md R24, R40; Assumption 2). -/
def State.withFetchWord (s : State) (nbits w : Nat) : State :=
  { s with script := .write 0x004 4 (BitVec.ofNat 32 (w % 2 ^ nbits)) :: s.script, turns := .host :: s.turns }

end Sys2Proof.Machine
end

