-- ==== Sys2Proof/Machine/Script.lean ====
section
/-! DEFINITION. The host-script assembly (30_encoding.md R98-R100): the pseudo-instructions are names for bus
transactions. -/

namespace Sys2Proof.Machine

/-- `WR off, data`. -/
def Line.wr (off : Nat) (data : Word) : Line := .write off 4 data

/-- `RD off`. -/
def Line.rd (off : Nat) : Line := .read off 4

/-- A command mnemonic, NOP .. FINAL: the CMD write of its word (R99). -/
def Line.command (i : Instr) : Line := .wr 0x004 (encode i)

/-- WAIT, until BUSY = 0 (R99). -/
def Line.wait : Line := .poll 0x008 0x00000001#32 0x00000000#32

/-- SETLEN n (R99). -/
def Line.setLen (n : Word) : Line := .wr 0x010 n

/-- CLRST, clear DONE and OVR (R99). -/
def Line.clrst : Line := .wr 0x008 0x00000006#32

/-- WRBUF a, v (R99). -/
def Line.wrBuf (a : Nat) (v : Word) : Line := .wr (0x1000 + a) v

/-- RDBUF a (R99). -/
def Line.rdBuf (a : Nat) : Line := .rd (0x1000 + a)

/-- RDDIG (R99). -/
def Line.rdDig : List Line := [.rd 0x030, .rd 0x034, .rd 0x038, .rd 0x03C]

end Sys2Proof.Machine
end

