-- ==== Sys2Proof/Safety.lean ====
section
/-! DEFINITION. The terms claims are made in: the range check and the effect of each command (40_commands.md R111, R119),
the invariant of the machine, what a step of the host on one transaction is, and MD5 as a function of a message, written on
lists of bytes with no buffer, no register and no command in it. -/

namespace Sys2Proof.Machine

/-! ### The two tables of 40_commands.md -/

/-- The range check of each command when it is presented (R111). -/
def rangeCheck : Instr → State → ErrCode
  | .nop, _ => .none
  | .digest, s => lenCheck s
  | .pad, s => lenCheck s
  | .init, _ => .none
  | .compress blk, s => blkCheck blk s
  | .final, _ => .none

/-- Effect(d), the update made at completion (R119); NOP has none. -/
def effect : Instr → State → State
  | .nop => id
  | .digest => digestEffect
  | .pad => padEffect
  | .init => initEffect
  | .compress blk => compressEffect blk
  | .final => finalEffect

/-! ### The invariant -/

/-- What holds at reset and after every step. -/
structure State.Inv (s : State) : Prop where
  /-- The buffer is in its canonical form. -/
  bufCanonical : s.buf.wf = true
  /-- No address outside [0, BUF_BYTES) has been formed (20_memory.md R79). -/
  bufInside : ∀ c ∈ s.buf, c.1 < s.cfg.bufBytes
  /-- BUSY = 1 exactly when PEND is not none (10_state.md R26). -/
  busyIffPend : s.busy = s.pend.isSome
  /-- DONE and BUSY are never both 1 (10_state.md R27). -/
  doneOrBusy : s.busy = true → s.done = false
  /-- While a command runs, ERR is 0 (40_commands.md R114, R115). -/
  errWhileBusy : s.busy = true → s.err = .none
  /-- The running command passed its range check, and LEN has not changed since (R111, R114). -/
  pendFits : ∀ i, s.pend = some i → i ≠ .nop ∧ rangeCheck i s = .none

/-! ### Steps and what they leave alone -/

/-- The next step is the host's, and it makes the transaction `l` (R17). -/
abbrev State.hostMakes (s : State) (l : Line) : Prop := s.mover = .host ∧ s.script.head? = some l

/-- `t` has the engine state of `s`: everything the manual counts as state (R20) and the configuration, whatever the
host, the schedule and the draw counter are. -/
structure State.SameEngine (s t : State) : Prop where
  buf : t.buf = s.buf
  acc : t.acc = s.acc
  dig : t.dig = s.dig
  len : t.len = s.len
  busy : t.busy = s.busy
  done : t.done = s.done
  ovr : t.ovr = s.ovr
  err : t.err = s.err
  ie : t.ie = s.ie
  pend : t.pend = s.pend
  cfg : t.cfg = s.cfg

/-- From `s` to `t` one transaction is answered with `r`: it leaves the script, the response is the newest, and one turn
has been taken (20_memory.md R73). -/
structure State.Answered (s t : State) (r : Response) : Prop where
  responses : t.responses = s.responses ++ [r]
  script : t.script = s.script.tail
  turns : t.turns = s.turns.tail

/-- From `s` to `t` the host does nothing: its script and its responses are as before, and one turn has been taken. -/
structure State.HostRests (s t : State) : Prop where
  responses : t.responses = s.responses
  script : t.script = s.script
  turns : t.turns = s.turns.tail

/-- The step from `s` leads to a state with the engine state of `want`; it answers the host's transaction with `r`. -/
def State.stepAnswers (s : State) (r : Response) (want : State) : Prop :=
  ∃ t, step s = .next t ∧ want.SameEngine t ∧ s.Answered t r

/-- Running `i` in `s` leads to a state with the engine state of `want`, and the host does nothing. -/
def State.execCompletes (s : State) (i : Instr) (want : State) : Prop :=
  ∃ t, exec i s = .next t ∧ want.SameEngine t ∧ s.HostRests t

/-- Presenting `i` in `s` leads to a state with the engine state of `want`; it answers the host's transaction with OK. -/
def State.execAnswers (s : State) (i : Instr) (want : State) : Prop :=
  ∃ t, exec i s = .next t ∧ want.SameEngine t ∧ s.Answered t (.write .ok)

/-- The offset of a transaction. -/
def Line.offset : Line → Nat
  | .read off _ => off
  | .write off _ _ => off
  | .poll off _ _ => off

/-- Every transaction still to come has an offset of ADDR_W bits, as the port carries it (20_memory.md R60, R80). -/
def State.onPort (s : State) : Prop := ∀ l ∈ s.script, l.offset < 2 ^ s.cfg.addrW

/-- The accesses the aperture does not admit: a size other than 4, a misaligned offset, a reserved or unmapped offset, a
write to an RO register or ROM (20_memory.md R65, R66; 10_state.md R45). -/
def badAccess (bufBytes off size : Nat) (isWrite : Bool) : Prop :=
  size ≠ 4 ∨ off % 4 ≠ 0 ∨ off = 0x01C ∨ (0x040 ≤ off ∧ off ≤ 0x0FF) ∨ (0x300 ≤ off ∧ off ≤ 0xFFF) ∨
  0x1000 + bufBytes ≤ off ∨
  (isWrite = true ∧ (off = 0x000 ∨ off = 0x014 ∨ off = 0x018 ∨ (0x030 ≤ off ∧ off ≤ 0x03F) ∨ (0x100 ≤ off ∧ off ≤ 0x2FF)))

/-- The buffer bytes that a command takes as it finds them (10_state.md R43; 44_digest.md R202): DIGEST the message, since it
writes the padding itself before it reads it, COMPRESS its slot, the others none. -/
def inputByte : Instr → State → Nat → Prop
  | .nop, _, _ => False
  | .digest, s, x => x < s.len.toNat
  | .pad, _, _ => False
  | .init, _, _ => False
  | .compress blk, _, x => 64 * blk ≤ x ∧ x < 64 * blk + 64
  | .final, _, _ => False

/-- A command presented on the host's turn and completed on the engine's turn that follows, with no other step between:
the command "waited for" of 44_digest.md R201. -/
def runCommand (i : Instr) (s : State) : Option State :=
  match exec i { s with turns := [.host, .engine] } with
  | .next t =>
    match exec i t with
    | .next u => some u
    | .fault _ => none
    | .refused _ => none
  | .fault _ => none
  | .refused _ => none

/-- Commands run one after the other, each waited for. -/
def runCommands : List Instr → State → Option State
  | [], s => some s
  | i :: is, s => (runCommand i s).bind (runCommands is)

/-! ### Words and bytes as functions -/

/-- A word of the manual's pseudocode from the bytes at `a`, `a+1`, `a+2`, `a+3` of a byte function, byte `a` in bits
[7:0] (20_memory.md R64), written with `++`, most significant byte first. -/
def wordAt (bytes : Nat → Byte) (a : Nat) : Word := bytes (a + 3) ++ bytes (a + 2) ++ bytes (a + 1) ++ bytes a

/-- The sixteen words of the block that starts at `a` (43_compression.md R178). -/
def blockAt (bytes : Nat → Byte) (a : Nat) : List Word := (List.range 16).map fun j => wordAt bytes (a + 4 * j)

/-- How many bytes of [a, b) have not been written since reset. -/
def unwritten (m : Memory) (a b : Nat) : Nat := (List.range' a (b - a)).countP fun x => (m.read? x).isNone

/-- The byte at `x` as a read sees it that runs upwards from `a` with `n` draws already made: the byte written last, or
the draw that falls to it, one for each byte not written since reset (20_memory.md R78). -/
def byteSeen (m : Memory) (n a x : Nat) : Byte := (m.read? x).getD (Config.freeByte (n + unwritten m a x))

/-- The message of PAD and DIGEST, buffer bytes [0, LEN), as DIGEST sees it (44_digest.md R200, R206). -/
def messageSeen (s : State) : List Byte := (List.range s.len.toNat).map (byteSeen s.buf s.draws 0)

/-! ### MD5 of a message -/

/-- Byte `x` of the padded message (41_padding.md R134, R137): the message, the marker, zeros, and the bit-length in the
last eight bytes of cap(L), least significant first. -/
def paddedByte (msg : List Byte) (x : Nat) : Byte :=
  if x < msg.length then msg.getD x 0#8
  else if x = msg.length then 0x80#8
  else if x < capOf msg.length - 8 then 0#8
  else (BitVec.ofNat 64 (8 * msg.length)).extractLsb' (8 * (x - (capOf msg.length - 8))) 8

/-- The accumulators after the first n blocks of a padded message, from the IV (44_digest.md R205). -/
def md5Blocks (bytes : Nat → Byte) : Nat → Quad
  | 0 => iv
  | n + 1 => compressBlock (md5Blocks bytes n) (blockAt bytes (64 * n))

/-- The MD5 of a message, as four words (44_digest.md R200; 42_accumulator.md R155 gives their bytes). -/
def md5 (msg : List Byte) : Quad := md5Blocks (paddedByte msg) (chunkCount msg.length)

end Sys2Proof.Machine
end

