-- ==== Sys2Proof/Certificates/Slice0/Obligations.lean ====
section
/-! DEFINITION. The statements for the provers. Offsets, words and bit positions are written out from the manual.
`stepAnswers`, `execAnswers` and `execCompletes` say that the step or the instruction ANSWERS A NEXT STATE, give the whole
engine state of 10_state.md R20 in it (so that everything not named is unchanged: the frame), what the host receives, and
which transactions it has still to make.
The fields cfg, script, turns, responses and draws are the model's own (Assumptions 1, 2, 3, 8, 4). -/

open Sys2Proof Sys2Proof.Machine

/-! ### Encoding -/

/-- Decoding the word of a well-formed command gives the command back, with BLK at every value of its field
(30_encoding.md R94, R95). -/
def Obligations.DecodeOfEncode : Prop :=
  ∀ i : Instr, i.wellFormed = true → decode (encode i) = .cmd i

/-- Each command has one word: a word that decodes to a command is the word of that command, which is well formed
(30_encoding.md R96: every other word is reserved). -/
def Obligations.EncodeOfDecode : Prop :=
  ∀ (w : Word) (i : Instr), decode w = .cmd i → i.wellFormed = true ∧ encode i = w

/-- R94: the match and mask of each row decide what a word spells, and no two rows match one word. -/
def Obligations.DecodeByMatchAndMask : Prop :=
  (∀ w : Word,
    (decode w = .cmd .nop ↔ w &&& 0xFFFFFFFF#32 = 0x00000000#32) ∧
    (decode w = .cmd .digest ↔ w &&& 0xFFFFFFFF#32 = 0x00000001#32) ∧
    (decode w = .cmd .pad ↔ w &&& 0xFFFFFFFF#32 = 0x00000002#32) ∧
    (decode w = .cmd .init ↔ w &&& 0xFFFFFFFF#32 = 0x00000003#32) ∧
    (decode w = .cmd (.compress (w.extractLsb' 16 16).toNat) ↔ w &&& 0x0000FFFF#32 = 0x00000004#32) ∧
    (decode w = .cmd .final ↔ w &&& 0xFFFFFFFF#32 = 0x00000005#32)) ∧
  (∀ w : Word, [(0x00000000#32, 0xFFFFFFFF#32), (0x00000001#32, 0xFFFFFFFF#32), (0x00000002#32, 0xFFFFFFFF#32),
      (0x00000003#32, 0xFFFFFFFF#32), (0x00000004#32, 0x0000FFFF#32), (0x00000005#32, 0xFFFFFFFF#32)].Pairwise
    fun p q => ¬ (w &&& p.2 = p.1 ∧ w &&& q.2 = q.1))

/-- Sanity: words written out from the encodings of R94 decode to their commands, and words of 95_test_vectors.md
sections 4.4 and 5 are BADCMD. The names of the three reasons are the model's choice (Assumption 17): R95 returns BADCMD
alone. -/
def Obligations.SpelledWordsDecode : Prop :=
  decode 0b00000000000000000000000000000001#32 = .cmd .digest ∧
  decode 0b00000000000000000000000000000101#32 = .cmd .final ∧
  decode 0x003F0004#32 = .cmd (.compress 63) ∧ decode 0xFFFF0004#32 = .cmd (.compress 65535) ∧
  decode 0x00400104#32 = .badcmd .reservedField ∧ decode 0x00000006#32 = .badcmd .reservedOpcode ∧
  decode 0x00010003#32 = .badcmd .blockField

/-! ### What a step runs -/

/-- A step runs the decoded instruction: a CMD write by the host of a word that decodes to `i` is `exec i` in the same
state, the engine's turn with `i` running is `exec i` in the same state, and a table word placed by withFetchWord is run
by the very next step. -/
def Obligations.StepRunsDecodedCommand : Prop :=
  (∀ (s : State) (w : Word) (i : Instr), s.hostMakes (.write 0x004 4 w) → decode w = .cmd i → step s = exec i s) ∧
  (∀ (s : State) (i : Instr), s.mover = .engine → s.pend = some i → step s = exec i s) ∧
  (∀ (s : State) (nbits w : Nat) (i : Instr), decodeTableWord nbits w = some i →
    step (s.withFetchWord nbits w) = exec i (s.withFetchWord nbits w))

/-- The machine never stops: every step and every instruction answers a next state (60_exceptions.md R220; 93, part 2,
"Nothing in this engine is treated as `fault` or `stuck`"). -/
def Obligations.EveryStepAnswersNext : Prop :=
  (∀ s : State, ∃ t, step s = .next t) ∧ (∀ (i : Instr) (s : State), ∃ t, exec i s = .next t)

/-! ### The life of a command -/

/-- R112: a CMD write while busy, of any word, sets OVR and changes nothing else. -/
def Obligations.CommandDroppedWhileBusy : Prop :=
  ∀ (s : State) (w : Word), s.hostMakes (.write 0x004 4 w) → s.busy = true →
    s.stepAnswers (.write .ok) { s with ovr := true }

/-- R113: a CMD write while idle that decodes to BADCMD or fails its range check changes ERR and DONE only, and raises
irq where IE = 1. -/
def Obligations.RejectionIsPrecise : Prop :=
  ∀ (s : State) (w : Word) (code : ErrCode), s.hostMakes (.write 0x004 4 w) → s.busy = false →
    ((∃ why, decode w = .badcmd why) ∧ code = .badcmd ∨
      (decode w = .cmd .pad ∨ decode w = .cmd .digest) ∧ 64 * chunkCount s.len.toNat > s.cfg.bufBytes ∧ code = .len ∨
      (∃ blk, decode w = .cmd (.compress blk) ∧ 64 * (blk + 1) > s.cfg.bufBytes) ∧ code = .blk) →
    s.stepAnswers (.write .ok) { s with err := code, done := true } ∧
    ∀ t, step s = .next t → t.irq = s.ie

/-- R93: a word with RSV not 0, and a word with BLK not 0 whose OP is not that of COMPRESS, is rejected with
ERR = BADCMD. -/
def Obligations.ReservedFieldRejected : Prop :=
  ∀ (s : State) (w : Word), s.hostMakes (.write 0x004 4 w) → s.busy = false →
    (w.extractLsb' 8 8 ≠ 0#8 ∨ (w.extractLsb' 16 16 ≠ 0#16 ∧ w.extractLsb' 0 8 ≠ 0x04#8)) →
    s.stepAnswers (.write .ok) { s with err := .badcmd, done := true }

/-- The opcodes 0x06..0xFF are rejected with ERR = BADCMD and no other effect (30_encoding.md R91, R96). -/
def Obligations.ReservedOpcodeRejected : Prop :=
  ∀ (s : State) (w : Word), s.hostMakes (.write 0x004 4 w) → s.busy = false → 0x06 ≤ (w.extractLsb' 0 8).toNat →
    s.stepAnswers (.write .ok) { s with err := .badcmd, done := true }

/-- A command other than NOP that passes its range check while idle is accepted: ERR and DONE are cleared, it becomes
the running command, BUSY rises, and nothing else changes (40_commands.md R114). -/
def Obligations.AcceptanceStartsTheCommand : Prop :=
  ∀ (s : State) (i : Instr), s.mover = .host → s.busy = false → i ≠ .nop →
    (i = .pad ∨ i = .digest → 64 * chunkCount s.len.toNat ≤ s.cfg.bufBytes) →
    (∀ blk, i = .compress blk → 64 * (blk + 1) ≤ s.cfg.bufBytes) →
    s.execAnswers i { s with err := .none, done := false, pend := some i, busy := true }

/-- R118: NOP completes within its CMD write: DONE is set and ERR cleared while idle, irq follows IE, OVR alone is set
while busy; 0x00000000 is its word and every other word with OP = 0x00 is BADCMD. -/
def Obligations.NopCompletesInItsWrite : Prop :=
  (∀ s : State, s.mover = .host → s.busy = false → s.execAnswers .nop { s with err := .none, done := true }) ∧
  (∀ s t : State, s.mover = .host → s.busy = false → exec .nop s = .next t → t.irq = s.ie) ∧
  (∀ s : State, s.mover = .host → s.busy = true → s.execAnswers .nop { s with ovr := true }) ∧
  decode 0x00000000#32 = .cmd .nop ∧
  (∀ w : Word, w.extractLsb' 0 8 = 0x00#8 → w ≠ 0x00000000#32 → ∃ why, decode w = .badcmd why)

/-- R133: PAD and DIGEST are rejected with ERR = 2 exactly when the padded message does not fit; the largest accepted
LEN is BUF_BYTES - 9, and LEN = 0xFFFFFFFF is always rejected. -/
def Obligations.LengthCheckRejects : Prop :=
  (∀ (s : State) (i : Instr), i = .pad ∨ i = .digest → s.mover = .host → s.busy = false →
    64 * chunkCount s.len.toNat > s.cfg.bufBytes → s.execAnswers i { s with err := .len, done := true }) ∧
  (∀ (c : Config) (l : Nat), 64 * chunkCount l ≤ c.bufBytes ↔ l ≤ c.bufBytes - 9) ∧
  (∀ c : Config, 64 * chunkCount 0xFFFFFFFF > c.bufBytes)

/-- R180: COMPRESS of a slot that does not exist, that is BLK >= NBLK, is rejected with ERR = 3; with
BUF_BYTES = 4096 the accepted slots are 0..63. -/
def Obligations.SlotCheckRejects : Prop :=
  (∀ (s : State) (blk : Nat), s.mover = .host → s.busy = false → 64 * (blk + 1) > s.cfg.bufBytes →
    s.execAnswers (.compress blk) { s with err := .blk, done := true }) ∧
  (∀ (c : Config) (blk : Nat), 64 * (blk + 1) > c.bufBytes ↔ blk ≥ c.bufBytes / 64) ∧
  (∀ (c : Config) (blk : Nat), c.bufBytes = 4096 → (64 * (blk + 1) ≤ c.bufBytes ↔ blk ≤ 63))

/-! ### The effects of the commands -/

/-- R131: the padded length is a multiple of 64 between L + 9 and L + 72, with 0 to 63 zero bytes between the marker and
the length field, and chunkCount(L) = k exactly on [max(0, 64k - 72), 64k - 9]. -/
def Obligations.PaddedLengthBounds : Prop :=
  (∀ l : Nat, (64 * chunkCount l) % 64 = 0 ∧ l + 9 ≤ 64 * chunkCount l ∧ 64 * chunkCount l ≤ l + 72 ∧
    l < 64 * chunkCount l - 8 ∧ 64 * chunkCount l - 8 - (l + 1) ≤ 63) ∧
  (∀ l k : Nat, (chunkCount l = k ↔ 64 * ((k : Int) - 1) < (l : Int) + 9 ∧ (l : Int) + 9 ≤ 64 * k) ∧
    (1 ≤ k → (chunkCount l = k ↔ 64 * k - 72 ≤ l ∧ l ≤ 64 * k - 9))) ∧
  (∀ l : Nat, (chunkCount l = 1 ↔ l ≤ 55) ∧ (chunkCount l = 2 ↔ 56 ≤ l ∧ l ≤ 119))

/-- PAD completes with the padding of 41_padding.md R134: 0x80 at L, zeros up to the last eight bytes of cap(L), the
bit-length there least significant byte first, and every other byte of the buffer as before (R136); it makes no draw. -/
def Obligations.PadWritesThePadding : Prop :=
  ∀ s : State, s.mover = .engine → s.pend = some .pad →
    ∃ t, exec .pad s = .next t ∧
      ({ s with buf := t.buf, pend := none, busy := false, done := true } : State).SameEngine t ∧
      t.draws = s.draws ∧ s.HostRests t ∧
      ∀ x : Nat, t.buf.read? x =
        if x < s.len.toNat ∨ 64 * chunkCount s.len.toNat ≤ x then s.buf.read? x
        else if x = s.len.toNat then some 0x80#8
        else if x < 64 * chunkCount s.len.toNat - 8 then some 0x00#8
        else some ((BitVec.ofNat 64 (8 * s.len.toNat)).extractLsb' (8 * (x - (64 * chunkCount s.len.toNat - 8))) 8)

/-- R138: a second PAD with the same LEN leaves the buffer as the first left it; one with another LEN leaves every byte
outside its own padding. -/
def Obligations.PadTwice : Prop :=
  ∀ (s t u : State) (v : Word), s.Inv → s.mover = .engine → s.pend = some .pad → exec .pad s = .next t →
    exec .pad { t with len := v, pend := some .pad, busy := true, done := false, turns := [.engine] } = .next u →
    (v = s.len → u.buf = t.buf) ∧
    ∀ x : Nat, x < v.toNat ∨ 64 * chunkCount v.toNat ≤ x → u.buf.read? x = t.buf.read? x

/-- R150: INIT completes with the four initial accumulator values, and nothing but ACC and the end of the command
changes. -/
def Obligations.InitLoadsTheIv : Prop :=
  ∀ s : State, s.mover = .engine → s.pend = some .init →
    s.execCompletes .init
      { s with acc := { a := 0x67452301#32, b := 0xEFCDAB89#32, c := 0x98BADCFE#32, d := 0x10325476#32 },
               pend := none, busy := false, done := true }

/-- FINAL completes with DIG = ACC, and nothing but DIG and the end of the command changes (42_accumulator.md R154). -/
def Obligations.FinalCopiesAccToDig : Prop :=
  ∀ s : State, s.mover = .engine → s.pend = some .final →
    s.execCompletes .final { s with dig := s.acc, pend := none, busy := false, done := true }

/-- COMPRESS completes with ACC = CompressBlock(ACC, M), where word j of M is made of bytes 64 blk + 4j .. + 3, least
significant first, and a byte not written since reset is a fresh draw (43_compression.md R178, R179; 20_memory.md R78);
nothing but ACC, the draws and the end of the command changes. -/
def Obligations.CompressAccumulatesOneBlock : Prop :=
  ∀ (s : State) (blk : Nat), s.mover = .engine → s.pend = some (.compress blk) →
    ∃ t, exec (.compress blk) s = .next t ∧
      ({ s with acc := compressBlock s.acc (blockAt (byteSeen s.buf s.draws (64 * blk)) (64 * blk)),
                pend := none, busy := false, done := true } : State).SameEngine t ∧
      s.HostRests t ∧ t.draws = s.draws + unwritten s.buf (64 * blk) (64 * blk + 64)

/-- CompressBlock is 64 rounds and one accumulate step: working registers that start at the accumulators, that each
round i in the order 0..63 changes as 43_compression.md R175 says, with `roundF`, `kConst`, `msgIndex` and `sAmount`
of R170-R174 and a rotation of R12, are added to the accumulators (R176, R177). -/
def Obligations.CompressBlockIsSixtyFourRounds : Prop :=
  ∀ (acc : Quad) (m : List Word) (w : Nat → Quad), w 0 = acc →
    (∀ i < 64,
      (w (i + 1)).a = (w i).d ∧ (w (i + 1)).c = (w i).b ∧ (w (i + 1)).d = (w i).c ∧
      (w (i + 1)).b = (w i).b +
        (roundF i (w i).b (w i).c (w i).d + (w i).a + kConst i + m.getD (msgIndex i) 0#32).rotateLeft (sAmount i)) →
    compressBlock acc m = { a := acc.a + (w 64).a, b := acc.b + (w 64).b, c := acc.c + (w 64).c, d := acc.d + (w 64).d }

/-- The round functions are bitwise, bit for bit the choices and parities of 43_compression.md R173. -/
def Obligations.RoundFunctionsBitwise : Prop :=
  ∀ (i : Nat) (b c d : Word) (k : Nat), i < 64 → k < 32 →
    (roundF i b c d).getLsbD k =
      if i < 16 then (if b.getLsbD k then c.getLsbD k else d.getLsbD k)
      else if i < 32 then (if d.getLsbD k then b.getLsbD k else c.getLsbD k)
      else if i < 48 then (b.getLsbD k ^^ c.getLsbD k ^^ d.getLsbD k)
      else (c.getLsbD k ^^ (b.getLsbD k || !d.getLsbD k))

/-- DIGEST completes with DIG = ACC = the MD5 of the LEN bytes of the message, a byte never written being a draw, with
the padding of R134 in the buffer and every byte outside it as before; nothing else changes (44_digest.md R200). -/
def Obligations.DigestComputesMd5 : Prop :=
  ∀ s : State, s.mover = .engine → s.pend = some .digest →
    ∃ t, exec .digest s = .next t ∧
      ({ s with buf := t.buf, acc := md5 (messageSeen s), dig := md5 (messageSeen s),
                pend := none, busy := false, done := true } : State).SameEngine t ∧
      s.HostRests t ∧ t.draws = s.draws + unwritten s.buf 0 s.len.toNat ∧
      ∀ x : Nat, t.buf.read? x =
        if s.len.toNat ≤ x ∧ x < 64 * chunkCount s.len.toNat then some (paddedByte (messageSeen s) x)
        else s.buf.read? x

/-- Two engines that differ in anything but LEN and the message bytes [0, LEN) they hold, BUF_BYTES included, compute the
same digest (44_digest.md R202; no host transaction changes LEN or those bytes after acceptance, HostCannotDisturbCommand). -/
def Obligations.DigestDependsOnMessageOnly : Prop :=
  ∀ s s' t t' : State, s.mover = .engine → s.pend = some .digest → s'.mover = .engine → s'.pend = some .digest →
    s.len = s'.len →
    (∀ x < s.len.toNat, ∃ b : Byte, s.buf.read? x = some b ∧ s'.buf.read? x = some b) →
    exec .digest s = .next t → exec .digest s' = .next t' → t.dig = t'.dig

/-- R203: after DIGEST the message bytes and the bytes from 64N on are unchanged, and the bytes between hold the padding
of R134. -/
def Obligations.DigestBufferAfterwards : Prop :=
  ∀ s t : State, s.mover = .engine → s.pend = some .digest → exec .digest s = .next t →
    (∀ x < s.len.toNat, t.buf.read? x = s.buf.read? x) ∧
    (∀ x ≥ 64 * chunkCount s.len.toNat, t.buf.read? x = s.buf.read? x) ∧
    t.buf.read? s.len.toNat = some 0x80#8 ∧
    (∀ x, s.len.toNat < x → x < 64 * chunkCount s.len.toNat - 8 → t.buf.read? x = some 0x00#8) ∧
    (∀ j < 8, t.buf.read? (64 * chunkCount s.len.toNat - 8 + j) =
      some ((BitVec.ofNat 64 (8 * s.len.toNat)).extractLsb' (8 * j) 8))

/-- Where every message byte has been written, DIGEST leaves the same BUF, ACC and DIG as PAD; INIT; COMPRESS 0; ...;
COMPRESS N-1; FINAL, each waited for, and makes as many draws; both end idle with DONE = 1 and ERR = 0 (44_digest.md R201;
of a message byte not written, R206 leaves both results unconstrained). -/
def Obligations.DigestEqualsItsSequence : Prop :=
  ∀ s : State, s.Inv → s.busy = false → 64 * chunkCount s.len.toNat ≤ s.cfg.bufBytes →
    (∀ x < s.len.toNat, s.buf.read? x ≠ none) →
    ∃ u v, runCommand .digest s = some u ∧
      runCommands (.pad :: .init :: (List.range (chunkCount s.len.toNat)).map .compress ++ [.final]) s = some v ∧
      u.buf = v.buf ∧ u.acc = v.acc ∧ u.dig = v.dig ∧ u.draws = v.draws ∧
      u.busy = false ∧ u.done = true ∧ u.err = .none ∧ v.busy = false ∧ v.done = true ∧ v.err = .none

/-- R204: after DIGEST the accumulators hold the digest, and a COMPRESS that follows starts from it. -/
def Obligations.DigestLeftInAcc : Prop :=
  ∀ s t : State, s.mover = .engine → s.pend = some .digest → exec .digest s = .next t →
    t.acc = t.dig ∧
    ∀ (blk : Nat) (u : State),
      exec (.compress blk) { t with pend := some (.compress blk), busy := true, done := false, turns := [.engine] } = .next u →
      u.acc = compressBlock t.dig (blockAt (byteSeen t.buf t.draws (64 * blk)) (64 * blk))

/-- Chaining (42_accumulator.md R153): COMPRESS depends on ACC and on the 64 bytes of its slot alone, so a slot of one
engine and another slot of another, with the same written bytes and the same ACC, give the same ACC. -/
def Obligations.CompressDependsOnAccAndSlotOnly : Prop :=
  ∀ (s s' t t' : State) (blk blk' : Nat),
    s.mover = .engine → s.pend = some (.compress blk) → s'.mover = .engine → s'.pend = some (.compress blk') →
    s.acc = s'.acc →
    (∀ j < 64, ∃ b : Byte, s.buf.read? (64 * blk + j) = some b ∧ s'.buf.read? (64 * blk' + j) = some b) →
    exec (.compress blk) s = .next t → exec (.compress blk') s' = .next t' → t.acc = t'.acc

/-- R155: digest byte j is bits [8 (j mod 4) + 7 : 8 (j mod 4)] of digest word j div 4, for the sixteen bytes. -/
def Obligations.DigestByteOrder : Prop :=
  ∀ q : Quad, (digestBytes q).length = 16 ∧
    ∀ j < 16, (digestBytes q)[j]? = ([q.a, q.b, q.c, q.d][j / 4]?).map fun w => w.extractLsb' (8 * (j % 4)) 8

/-! ### The registers -/

/-- R25: a read of STATUS returns ERR, OVR, DONE and BUSY in their bits and 0 in the others; a write clears DONE by bit 1
and OVR by bit 2 and ignores every other bit, also while busy; after reset every field is 0. -/
def Obligations.StatusRegister : Prop :=
  (∀ s : State, s.hostMakes (.read 0x008 4) →
    s.stepAnswers (.read ((BitVec.ofNat 24 0) ++ (BitVec.ofNat 4 s.err.code) ++ (0#1) ++ (BitVec.ofBool s.ovr) ++
      (BitVec.ofBool s.done) ++ (BitVec.ofBool s.busy) : BitVec 32) .ok) s) ∧
  (∀ (s : State) (w : Word), s.hostMakes (.write 0x008 4 w) →
    s.stepAnswers (.write .ok)
      { s with done := if w.getLsbD 1 then false else s.done, ovr := if w.getLsbD 2 then false else s.ovr }) ∧
  (State.reset.busy = false ∧ State.reset.done = false ∧ State.reset.ovr = false ∧ State.reset.err = .none)

/-- R30: CTRL bit 0 is IE, the other bits read 0 and are ignored; a write takes effect also while busy; reset 0. -/
def Obligations.ControlRegister : Prop :=
  (∀ s : State, s.hostMakes (.read 0x00C 4) →
    s.stepAnswers (.read ((BitVec.ofNat 31 0) ++ (BitVec.ofBool s.ie) : BitVec 32) .ok) s) ∧
  (∀ (s : State) (w : Word), s.hostMakes (.write 0x00C 4 w) →
    s.stepAnswers (.write .ok) { s with ie := w.getLsbD 0 }) ∧
  State.reset.ie = false

/-- LEN: a read returns it, a write while idle stores the word, a write while busy is dropped with OVR set
(10_state.md R31). -/
def Obligations.LengthRegister : Prop :=
  (∀ s : State, s.hostMakes (.read 0x010 4) → s.stepAnswers (.read s.len .ok) s) ∧
  (∀ (s : State) (w : Word), s.hostMakes (.write 0x010 4 w) →
    s.stepAnswers (.write .ok) (if s.busy then { s with ovr := true } else { s with len := w }))

/-- ACC_A..ACC_D: a read while idle returns the accumulator and while busy a fresh draw; a write while idle stores the
word and while busy is dropped with OVR set (10_state.md R34). -/
def Obligations.AccumulatorRegisters : Prop :=
  (∀ (s : State) (k : Lane) (off : Nat),
    (k, off) ∈ [(Lane.a, 0x020), (Lane.b, 0x024), (Lane.c, 0x028), (Lane.d, 0x02C)] → s.hostMakes (.read off 4) →
    s.stepAnswers (.read (if s.busy then Config.freeWord s.draws else s.acc.get k) .ok) s ∧
    ∀ t, step s = .next t → t.draws = if s.busy then s.draws + 1 else s.draws) ∧
  (∀ (s : State) (w : Word), s.hostMakes (.write 0x020 4 w) →
    s.stepAnswers (.write .ok) (if s.busy then { s with ovr := true } else { s with acc := { s.acc with a := w } })) ∧
  (∀ (s : State) (w : Word), s.hostMakes (.write 0x024 4 w) →
    s.stepAnswers (.write .ok) (if s.busy then { s with ovr := true } else { s with acc := { s.acc with b := w } })) ∧
  (∀ (s : State) (w : Word), s.hostMakes (.write 0x028 4 w) →
    s.stepAnswers (.write .ok) (if s.busy then { s with ovr := true } else { s with acc := { s.acc with c := w } })) ∧
  (∀ (s : State) (w : Word), s.hostMakes (.write 0x02C 4 w) →
    s.stepAnswers (.write .ok) (if s.busy then { s with ovr := true } else { s with acc := { s.acc with d := w } }))

/-- DIGEST0..DIGEST3: a read while idle returns the digest word and while busy a fresh draw; a write is a bus error
(10_state.md R35). -/
def Obligations.DigestRegisters : Prop :=
  ∀ (s : State) (v : Word) (off : Nat),
    (off, v) ∈ [(0x030, s.dig.a), (0x034, s.dig.b), (0x038, s.dig.c), (0x03C, s.dig.d)] →
    (s.hostMakes (.read off 4) →
      s.stepAnswers (.read (if s.busy then Config.freeWord s.draws else v) .ok) s ∧
      ∀ t, step s = .next t → t.draws = if s.busy then s.draws + 1 else s.draws) ∧
    (∀ w : Word, s.hostMakes (.write off 4 w) → s.stepAnswers (.write .err) s)

/-- ID, CMD, CHUNKS, CAP and the two ROM windows read exactly, busy or idle, and make no draw (10_state.md R23, R24, R32,
R33, R36, R37; 70_reset_and_hazards.md R256). -/
def Obligations.ConstantAndDerivedReads : Prop :=
  ∀ (s : State) (off : Nat) (v : Word),
    (off = 0x000 ∧ v = 0x4D443501#32 ∨ off = 0x004 ∧ v = 0x00000000#32 ∨
     off = 0x014 ∧ v.toNat = chunkCount s.len.toNat ∨ off = 0x018 ∧ v.toNat = s.cfg.bufBytes ∨
     (∃ i < 64, off = 0x100 + 4 * i ∧ v = kConst i) ∨ (∃ i < 64, off = 0x200 + 4 * i ∧ v.toNat = sAmount i)) →
    s.hostMakes (.read off 4) →
    s.stepAnswers (.read v .ok) s ∧ ∀ t, step s = .next t → t.draws = s.draws

/-! ### The buffer window and the bus -/

/-- R69: a write of the BUF window while idle stores byte v[8j+7:8j] at a + j and leaves every other byte; while busy it
is dropped and OVR is set; the response is OK in both cases. -/
def Obligations.BufferWindowWrite : Prop :=
  ∀ (s : State) (a : Nat) (v : Word), a + 4 ≤ s.cfg.bufBytes → a % 4 = 0 → s.hostMakes (.write (0x1000 + a) 4 v) →
    (s.busy = true → s.stepAnswers (.write .ok) { s with ovr := true }) ∧
    (s.busy = false → ∃ t, step s = .next t ∧ ({ s with buf := t.buf } : State).SameEngine t ∧
      s.Answered t (.write .ok) ∧
      ∀ x : Nat, t.buf.read? x = if a ≤ x ∧ x < a + 4 then some (v.extractLsb' (8 * (x - a)) 8) else s.buf.read? x)

/-- R68: a read of the BUF window while idle returns the four bytes, byte a in bits [7:0], each byte not written since
reset being a fresh draw; while busy it returns a draw; it has no side effect and is answered OK. -/
def Obligations.BufferWindowRead : Prop :=
  ∀ (s : State) (a : Nat), a + 4 ≤ s.cfg.bufBytes → a % 4 = 0 → s.hostMakes (.read (0x1000 + a) 4) →
    s.stepAnswers (.read (if s.busy then Config.freeWord s.draws else wordAt (byteSeen s.buf s.draws a) a) .ok) s ∧
    ∀ t, step s = .next t → t.draws = if s.busy then s.draws + 1 else s.draws + unwritten s.buf a (a + 4)

/-- The word the host writes while idle at BUF window offset 64n + 4j is the message word M[j] that COMPRESS of slot n
reads (20_memory.md R64). -/
def Obligations.HostWordIsMessageWord : Prop :=
  ∀ (s t : State) (n j draws : Nat) (v : Word), j < 16 → 64 * (n + 1) ≤ s.cfg.bufBytes → s.busy = false →
    s.hostMakes (.write (0x1000 + (64 * n + 4 * j)) 4 v) → step s = .next t →
    (t.buf.readBlock draws n).1[j]? = some v

/-- R67: a transaction the aperture does not admit is answered ERR, a read with data 0x00000000, and changes no state of
the engine, busy or idle, CMD included. -/
def Obligations.BusErrorChangesNothing : Prop :=
  (∀ (s : State) (off size : Nat), badAccess s.cfg.bufBytes off size false → s.hostMakes (.read off size) →
    s.stepAnswers (.read 0x00000000#32 .err) s) ∧
  (∀ (s : State) (off size : Nat) (w : Word), badAccess s.cfg.bufBytes off size true → s.hostMakes (.write off size w) →
    s.stepAnswers (.write .err) s)

/-- Every other access is answered OK (20_memory.md R66, step 4). -/
def Obligations.LegalAccessAnsweredOk : Prop :=
  (∀ (s : State) (off size : Nat), ¬ badAccess s.cfg.bufBytes off size false → s.hostMakes (.read off size) →
    ∃ t d, step s = .next t ∧ s.Answered t (.read d .ok)) ∧
  (∀ (s : State) (off size : Nat) (w : Word), ¬ badAccess s.cfg.bufBytes off size true →
    s.hostMakes (.write off size w) → ∃ t, step s = .next t ∧ s.Answered t (.write .ok))

/-- No read has a side effect on the engine (20_memory.md R71), and each receives the data and the code of the transaction
Read(off, size), making its draws; a POLL line is Read(off, 4), repeated until the masked data has the awaited value
(30_encoding.md R98). -/
def Obligations.ReadsHaveNoSideEffect : Prop :=
  (∀ (s t : State) (off size : Nat), s.hostMakes (.read off size) → step s = .next t →
    s.SameEngine t ∧ t.draws = (s.busRead off size).2.2 ∧
    s.Answered t (.read (s.busRead off size).1 (s.busRead off size).2.1)) ∧
  (∀ (s t : State) (off : Nat) (mask val : Word), s.hostMakes (.poll off mask val) → step s = .next t →
    s.SameEngine t ∧ t.draws = (s.busRead off 4).2.2 ∧ t.turns = s.turns.tail ∧
    t.responses = s.responses ++ [.read (s.busRead off 4).1 (s.busRead off 4).2.1] ∧
    t.script = if (s.busRead off 4).1 &&& mask = val then s.script.tail else s.script)

/-! ### Rules of the whole machine -/

/-- A step with the reset input low abandons the running command and gives every piece of engine state its reset value; no
buffer byte is left written, no bus transaction is answered, and the configuration, so CAP, is unaffected
(70_reset_and_hazards.md R250, R251; 10_state.md R44). That the input is a turn of the schedule is the model's choice
(Assumption 7). -/
def Obligations.ResetInputResets : Prop :=
  ∀ s : State, s.mover = .reset → ∃ t, step s = .next t ∧
    t.pend = none ∧ t.busy = false ∧ t.done = false ∧ t.ovr = false ∧ t.err = .none ∧ t.ie = false ∧ t.len = 0#32 ∧
    t.acc = { a := 0x67452301#32, b := 0xEFCDAB89#32, c := 0x98BADCFE#32, d := 0x10325476#32 } ∧
    t.dig = { a := 0#32, b := 0#32, c := 0#32, d := 0#32 } ∧ (∀ x, t.buf.read? x = none) ∧
    t.cfg = s.cfg ∧ s.HostRests t

/-- The state right after reset is the table of 10_state.md R44: every register at its value, no command running, no buffer
byte written, irq low, and CHUNKS would read 1. -/
def Obligations.ResetState : Prop :=
  State.reset.busy = false ∧ State.reset.done = false ∧ State.reset.ovr = false ∧ State.reset.err = .none ∧
  State.reset.ie = false ∧ State.reset.len = 0x00000000#32 ∧ State.reset.pend = none ∧
  State.reset.acc = { a := 0x67452301#32, b := 0xEFCDAB89#32, c := 0x98BADCFE#32, d := 0x10325476#32 } ∧
  State.reset.dig = { a := 0x00000000#32, b := 0x00000000#32, c := 0x00000000#32, d := 0x00000000#32 } ∧
  (∀ x, State.reset.buf.read? x = none) ∧ State.reset.irq = false ∧ chunkCount State.reset.len.toNat = 1

/-- The invariant holds at reset. -/
def Obligations.ResetMeetsInvariant : Prop := State.reset.Inv

/-- Every step keeps the invariant: the buffer stays in its canonical form and inside [0, BUF_BYTES), BUSY = 1 exactly
while a command is pending, DONE and BUSY are never both 1, ERR is 0 while busy, and the running command still passes its
range check. -/
def Obligations.StepKeepsInvariant : Prop :=
  ∀ s t : State, s.Inv → step s = .next t → t.Inv

/-- R26: BUSY rises only by the acceptance of a command other than NOP, falls only by that command's completion or by
reset, and is 1 exactly when PEND is not none. -/
def Obligations.BusyRisesAndFalls : Prop :=
  ∀ s t : State, s.Inv → step s = .next t →
    (s.busy = false → t.busy = true →
      ∃ (w : Word) (i : Instr), s.hostMakes (.write 0x004 4 w) ∧ decode w = .cmd i ∧ i ≠ .nop ∧ rangeCheck i s = .none ∧
        t.pend = some i) ∧
    (s.busy = true → t.busy = false → (s.mover = .engine ∧ s.pend ≠ none) ∨ s.mover = .reset) ∧
    (t.busy = true ↔ t.pend ≠ none)

/-- R27: DONE rises exactly by a completion, the acceptance of NOP or a rejection, and falls exactly by the acceptance of
another command, a write of 1 to STATUS bit 1, or reset; DONE and BUSY are never both 1. -/
def Obligations.DoneRisesAndFalls : Prop :=
  ∀ s t : State, s.Inv → step s = .next t →
    (s.done = false → (t.done = true ↔
      (s.mover = .engine ∧ s.pend ≠ none) ∨
      (s.busy = false ∧ ∃ w : Word, s.hostMakes (.write 0x004 4 w) ∧
        ∀ i, decode w = .cmd i → i = .nop ∨ rangeCheck i s ≠ .none))) ∧
    (s.done = true → (t.done = false ↔
      s.mover = .reset ∨ (∃ w : Word, s.hostMakes (.write 0x008 4 w) ∧ w.getLsbD 1 = true) ∨
      (∃ (w : Word) (i : Instr), s.hostMakes (.write 0x004 4 w) ∧ decode w = .cmd i ∧ i ≠ .nop ∧
        rangeCheck i s = .none))) ∧
    ¬ (t.done = true ∧ t.busy = true)

/-- R28: OVR rises exactly by a write to CMD, LEN, ACC_A..ACC_D or the BUF window while busy, and falls exactly by a write
of 1 to STATUS bit 2 or by reset. -/
def Obligations.OverrunRisesAndFalls : Prop :=
  ∀ s t : State, step s = .next t →
    (s.ovr = false → (t.ovr = true ↔ s.busy = true ∧ ∃ (off : Nat) (w : Word), s.hostMakes (.write off 4 w) ∧
      off % 4 = 0 ∧ (off = 0x004 ∨ off = 0x010 ∨ (0x020 ≤ off ∧ off ≤ 0x02C) ∨
        (0x1000 ≤ off ∧ off < 0x1000 + s.cfg.bufBytes)))) ∧
    (s.ovr = true → (t.ovr = false ↔
      s.mover = .reset ∨ ∃ w : Word, s.hostMakes (.write 0x008 4 w) ∧ w.getLsbD 2 = true))

/-- R29: ERR changes only when a CMD write is presented while idle, which leaves in it the code of that command, and on
reset, which clears it; its codes are 0 to 3. -/
def Obligations.ErrorCodeOfLastCommand : Prop :=
  ∀ s t : State, step s = .next t →
    (t.err ≠ s.err → s.mover = .reset ∨ (s.busy = false ∧ ∃ w : Word, s.hostMakes (.write 0x004 4 w))) ∧
    (s.mover = .reset → t.err = .none) ∧
    (∀ w : Word, s.busy = false → s.hostMakes (.write 0x004 4 w) →
      ((∃ why, decode w = .badcmd why) → t.err = .badcmd) ∧
      (decode w = .cmd .pad ∨ decode w = .cmd .digest →
        t.err = if 64 * chunkCount s.len.toNat > s.cfg.bufBytes then .len else .none) ∧
      (∀ blk, decode w = .cmd (.compress blk) → t.err = if 64 * (blk + 1) > s.cfg.bufBytes then .blk else .none) ∧
      (decode w = .cmd .nop ∨ decode w = .cmd .init ∨ decode w = .cmd .final → t.err = .none)) ∧
    (ErrCode.code .none = 0 ∧ ErrCode.code .badcmd = 1 ∧ ErrCode.code .len = 2 ∧ ErrCode.code .blk = 3) ∧
    ∀ e : ErrCode, e.code ≤ 3

/-- What may change each piece of state that a command reads or writes (10_state.md R31, R34, R35, R38, R43): only the
register writes and the commands named, and reset; the configuration never changes. -/
def Obligations.WritersOfEachRegister : Prop :=
  ∀ s t : State, step s = .next t → s.mover ≠ .reset →
    t.cfg = s.cfg ∧
    (t.dig ≠ s.dig → s.mover = .engine ∧ (s.pend = some .final ∨ s.pend = some .digest)) ∧
    (t.acc ≠ s.acc → (s.mover = .engine ∧ (s.pend = some .init ∨ s.pend = some .digest ∨ ∃ b, s.pend = some (.compress b))) ∨
      (s.busy = false ∧ ∃ (off : Nat) (w : Word), s.hostMakes (.write off 4 w) ∧ 0x020 ≤ off ∧ off ≤ 0x02C)) ∧
    (t.buf ≠ s.buf → (s.mover = .engine ∧ (s.pend = some .pad ∨ s.pend = some .digest)) ∨
      (s.busy = false ∧ ∃ (off : Nat) (w : Word), s.hostMakes (.write off 4 w) ∧ 0x1000 ≤ off)) ∧
    (t.len ≠ s.len → s.busy = false ∧ s.hostMakes (.write 0x010 4 t.len)) ∧
    (t.ie ≠ s.ie → ∃ w : Word, s.hostMakes (.write 0x00C 4 w))

/-- While a command runs no transaction of the host changes what the command reads or writes, the command itself, BUSY
or ERR; at most OVR, DONE (by write-one-to-clear) and IE change (40_commands.md R114, R117; 70_reset_and_hazards.md
R255). -/
def Obligations.HostCannotDisturbCommand : Prop :=
  ∀ s t : State, s.busy = true → s.mover = .host → step s = .next t →
    t.buf = s.buf ∧ t.acc = s.acc ∧ t.dig = s.dig ∧ t.len = s.len ∧ t.pend = s.pend ∧ t.busy = true ∧ t.err = s.err ∧
    t.cfg = s.cfg ∧ (t.done = true → s.done = true)

/-- Completion is not affected by what the host does in between: after any number of host turns (listed as Assumption 3
lists them) the engine's turn leaves the BUF, ACC and DIG that an immediate completion would have left, where the bytes
that the command takes from the buffer have been written (40_commands.md R115, R117; 20_memory.md R73; of a byte not
written, R78 leaves the result unconstrained). -/
def Obligations.CompletionUnaffectedByHost : Prop :=
  ∀ (s : State) (i : Instr) (k : Nat) (rest : List Turn), s.Inv → s.pend = some i →
    s.turns = List.replicate k .host ++ .engine :: rest → (∀ x, inputByte i s x → s.buf.read? x ≠ none) →
    ∃ t, core.run (k + 1) s = .next t ∧ t.busy = false ∧ t.done = true ∧ t.pend = none ∧
      t.buf = (effect i s).buf ∧ t.acc = (effect i s).acc ∧ t.dig = (effect i s).dig ∧ t.len = s.len

/-- Progress (40_commands.md R116), under the model's schedule of Assumption 3 (its own choice: an exhausted list of turns
gives the engine the next turn): from every state that meets the invariant, the running command is over within one step
more than there are turns listed. -/
def Obligations.RunningCommandEnds : Prop :=
  ∀ s : State, s.Inv → ∃ k ≤ s.turns.length + 1, ∃ t, core.run k s = .next t ∧ t.busy = false

/-- The interrupt rises only by a completion, by the acceptance of NOP or a rejection, or by enabling it while DONE is
pending; a dropped write and a bus error raise none (60_exceptions.md R223). -/
def Obligations.InterruptSources : Prop :=
  ∀ s t : State, step s = .next t → s.irq = false → t.irq = true →
    (s.mover = .engine ∧ s.pend ≠ none ∧ s.ie = true) ∨
    (s.busy = false ∧ s.ie = true ∧ ∃ w : Word, s.hostMakes (.write 0x004 4 w) ∧
      ∀ i, decode w = .cmd i → i = .nop ∨ rangeCheck i s ≠ .none) ∨
    (s.done = true ∧ ∃ w : Word, s.hostMakes (.write 0x00C 4 w) ∧ w.getLsbD 0 = true)

/-! ### The tables and the port -/

/-- The tables K and s of 43_compression.md R170 and R171 and the message index of R174, as the model has them. The spec
supplies K and s from general knowledge, and the model takes them so (Assumption 9, PRESUMED). -/
def Obligations.TablesOfTheManual : Prop :=
  (List.range 16).map kConst = [
    0xD76AA478#32, 0xE8C7B756#32, 0x242070DB#32, 0xC1BDCEEE#32, 0xF57C0FAF#32, 0x4787C62A#32, 0xA8304613#32, 0xFD469501#32,
    0x698098D8#32, 0x8B44F7AF#32, 0xFFFF5BB1#32, 0x895CD7BE#32, 0x6B901122#32, 0xFD987193#32, 0xA679438E#32,
    0x49B40821#32] ∧
  (List.range' 16 16).map kConst = [
    0xF61E2562#32, 0xC040B340#32, 0x265E5A51#32, 0xE9B6C7AA#32, 0xD62F105D#32, 0x02441453#32, 0xD8A1E681#32, 0xE7D3FBC8#32,
    0x21E1CDE6#32, 0xC33707D6#32, 0xF4D50D87#32, 0x455A14ED#32, 0xA9E3E905#32, 0xFCEFA3F8#32, 0x676F02D9#32,
    0x8D2A4C8A#32] ∧
  (List.range' 32 16).map kConst = [
    0xFFFA3942#32, 0x8771F681#32, 0x6D9D6122#32, 0xFDE5380C#32, 0xA4BEEA44#32, 0x4BDECFA9#32, 0xF6BB4B60#32, 0xBEBFBC70#32,
    0x289B7EC6#32, 0xEAA127FA#32, 0xD4EF3085#32, 0x04881D05#32, 0xD9D4D039#32, 0xE6DB99E5#32, 0x1FA27CF8#32,
    0xC4AC5665#32] ∧
  (List.range' 48 16).map kConst = [
    0xF4292244#32, 0x432AFF97#32, 0xAB9423A7#32, 0xFC93A039#32, 0x655B59C3#32, 0x8F0CCC92#32, 0xFFEFF47D#32, 0x85845DD1#32,
    0x6FA87E4F#32, 0xFE2CE6E0#32, 0xA3014314#32, 0x4E0811A1#32, 0xF7537E82#32, 0xBD3AF235#32, 0x2AD7D2BB#32,
    0xEB86D391#32] ∧
  (List.range 16).map sAmount = [7, 12, 17, 22, 7, 12, 17, 22, 7, 12, 17, 22, 7, 12, 17, 22] ∧
  (List.range' 16 16).map sAmount = [5, 9, 14, 20, 5, 9, 14, 20, 5, 9, 14, 20, 5, 9, 14, 20] ∧
  (List.range' 32 16).map sAmount = [4, 11, 16, 23, 4, 11, 16, 23, 4, 11, 16, 23, 4, 11, 16, 23] ∧
  (List.range' 48 16).map sAmount = [6, 10, 15, 21, 6, 10, 15, 21, 6, 10, 15, 21, 6, 10, 15, 21] ∧
  (∀ i < 64, msgIndex i < 16 ∧ (i < 16 → msgIndex i = i) ∧ (16 ≤ i → i < 32 → msgIndex i = (5 * i + 1) % 16) ∧
    (32 ≤ i → i < 48 → msgIndex i = (3 * i + 5) % 16) ∧ (48 ≤ i → msgIndex i = (7 * i) % 16))

/-- ADDR_W is at least ceil(log2(0x1000 + BUF_BYTES)), the least width whose aperture holds the whole map, is 13 for the
reference configuration, and every width that R10 allows, with every BUF_BYTES, is a configuration (00_scope.md R10;
20_memory.md R60, R61). -/
def Obligations.ApertureHoldsTheMap : Prop :=
  (∀ c : Config, ∃ least : Nat, 0x1000 + c.bufBytes ≤ 2 ^ least ∧ 2 ^ (least - 1) < 0x1000 + c.bufBytes ∧ least ≤ c.addrW ∧
    0x1000 + c.bufBytes ≤ 2 ^ c.addrW) ∧
  Config.reference.bufBytes = 4096 ∧ Config.reference.addrW = 13 ∧
  (∀ nblk w : Nat, 1 ≤ nblk → nblk ≤ 65536 → 0x1000 + 64 * nblk ≤ 2 ^ w → ∃ c : Config, c.bufBytes = 64 * nblk ∧ c.addrW = w)

/-- The port carries offsets of ADDR_W bits (20_memory.md R80): where every transaction still to come has such an offset,
every step leaves it so, the step's own transaction, if there is one, has such an offset, and after reset it is so. -/
def Obligations.OffsetsStayOnPort : Prop :=
  (∀ s t : State, s.onPort → step s = .next t →
    t.onPort ∧ ∀ l, s.hostMakes l → l.offset < 2 ^ s.cfg.addrW) ∧
  State.reset.onPort
end

