-- ==== Sys2Proof/Laws/Memory.lean ====
section
/-! SUPPORT. The laws of the message buffer: a read after a write, the bytes a write leaves alone, the canonical form kept
by every write, and what a read of several bytes returns. The read-after-write laws hold of every list, canonical or not. -/

namespace Sys2Proof.Machine

namespace Memory

variable (m : Memory)

/-! ### One byte -/

@[simp] theorem read?_nil (a : Nat) : read? [] a = none := rfl

theorem read?_write (a c : Nat) (b : Byte) : read? (write m a b) c = if c = a then some b else read? m c := by
  induction m with
  | nil => by_cases h : a = c <;> simp [write, read?, h, eq_comm]
  | cons p m ih =>
    obtain ⟨k, v⟩ := p
    simp only [write]
    split
    · by_cases h : a = c <;> simp [read?, h, eq_comm]
    · split
      · subst_vars
        by_cases h : c = k <;> simp [read?, h, eq_comm]
      · by_cases hk : k = c
        · subst hk; simp [read?]; intro h; exact absurd h.symm ‹_›
        · simp [read?, hk, ih]

@[simp] theorem read?_write_same (a : Nat) (b : Byte) : read? (write m a b) a = some b := by simp [read?_write]

theorem read?_write_other {a c : Nat} (h : c ≠ a) (b : Byte) : read? (write m a b) c = read? m c := by
  simp [read?_write, h]

/-! ### Several bytes -/

theorem read?_writeBytes (bs : List Byte) (m : Memory) (a c : Nat) :
    read? (writeBytes m a bs) c =
      if a ≤ c ∧ c < a + bs.length then bs[c - a]? else read? m c := by
  induction bs generalizing m a with
  | nil =>
    have : ¬ (a ≤ c ∧ c < a + ([] : List Byte).length) := by simp
    simp [writeBytes]
  | cons b bs ih =>
    rw [writeBytes, ih, read?_write]
    by_cases h1 : a + 1 ≤ c ∧ c < a + 1 + bs.length
    · have h2 : a ≤ c ∧ c < a + (b :: bs).length := by simp; omega
      rw [if_pos h1, if_pos h2, show c - a = (c - (a + 1)) + 1 by omega, List.getElem?_cons_succ]
    · rw [if_neg h1]
      by_cases h3 : c = a
      · subst h3; simp
      · rw [if_neg h3, if_neg]
        simp; omega

theorem read?_writeBytes_outside {bs : List Byte} {m : Memory} {a c : Nat}
    (h : c < a ∨ a + bs.length ≤ c) : read? (writeBytes m a bs) c = read? m c := by
  rw [read?_writeBytes, if_neg (by omega)]

@[simp] theorem length_leBytes (n v : Nat) : (leBytes n v).length = n := by
  induction n generalizing v with
  | zero => rfl
  | succ n ih => simp [leBytes, ih]

theorem getElem?_leBytes (n v j : Nat) (h : j < n) :
    (leBytes n v)[j]? = some (BitVec.ofNat 8 (v / 256 ^ j)) := by
  induction n generalizing v j with
  | zero => omega
  | succ n ih =>
    cases j with
    | zero => simp [leBytes]
    | succ j =>
      rw [leBytes, List.getElem?_cons_succ, ih _ _ (by omega), Nat.div_div_eq_div_mul, Nat.pow_succ']

/-- What `memWrite` does, byte by byte (R63). -/
theorem read?_memWrite (a n v c : Nat) :
    read? (memWrite m a n v) c =
      if a ≤ c ∧ c < a + n then some (BitVec.ofNat 8 (v / 256 ^ (c - a))) else read? m c := by
  rw [memWrite, read?_writeBytes, length_leBytes]
  split
  · rw [getElem?_leBytes _ _ _ (by omega)]
  · rfl

/-- What the padding does, byte by byte (R134). -/
theorem read?_padMessage (l c : Nat) :
    read? (padMessage m l) c =
      if capOf l - 8 ≤ c ∧ c < capOf l then some (BitVec.ofNat 8 (bitLength l / 256 ^ (c - (capOf l - 8))))
      else if c = l then some 0x80#8
      else if l < c ∧ c < capOf l - 8 then some 0#8
      else read? m c := by
  have hcap : l + 9 ≤ capOf l := by simp only [capOf, chunkCount, ceilDiv]; omega
  simp only [padMessage, read?_memWrite, read?_writeBytes, read?_write, List.length_replicate]
  by_cases h1 : capOf l - 8 ≤ c ∧ c < capOf l
  · rw [if_pos h1, if_pos (by omega)]
  · rw [if_neg h1, if_neg (by omega)]
    by_cases h2 : c = l
    · subst h2; rw [if_neg (by omega), if_pos rfl]; simp
    · rw [if_neg h2, if_neg h2]
      by_cases h3 : l < c ∧ c < capOf l - 8
      · rw [if_pos h3, if_pos (by omega), List.getElem?_replicate, if_pos (by omega)]
      · rw [if_neg h3, if_neg (by omega)]

/-! ### The canonical form, and the addresses listed -/

theorem risesFrom_write (o : Option Nat) (a : Nat) (b : Byte)
    (h : risesFrom o m = true) (ho : ∀ lo, o = some lo → lo < a) : risesFrom o (write m a b) = true := by
  induction m generalizing o with
  | nil => cases o <;> simp_all [write, risesFrom]
  | cons p m ih =>
    obtain ⟨k, v⟩ := p
    have hk : risesFrom (some k) m = true := by cases o <;> simp_all [risesFrom]
    simp only [write]
    split
    · cases o <;> simp_all [risesFrom]
    · split
      · cases o <;> simp_all [risesFrom]
      · have := ih (some k) hk (by intro lo hlo; simp at hlo; omega)
        cases o <;> simp_all [risesFrom]

theorem wf_write (a : Nat) (b : Byte) (h : wf m = true) : wf (write m a b) = true :=
  risesFrom_write m none a b h (by simp)

theorem wf_writeBytes (bs : List Byte) (m : Memory) (a : Nat) (h : wf m = true) :
    wf (writeBytes m a bs) = true := by
  induction bs generalizing m a with
  | nil => exact h
  | cons b bs ih => exact ih _ _ (wf_write m a b h)

theorem wf_memWrite (a n v : Nat) (h : wf m = true) : wf (memWrite m a n v) = true := wf_writeBytes _ m a h

theorem wf_padMessage (l : Nat) (h : wf m = true) : wf (padMessage m l) = true := by
  rw [padMessage]
  exact wf_memWrite _ _ _ _ (wf_writeBytes _ _ _ (wf_write m _ _ h))

/-- Every listed address is below `n`. -/
abbrev below (n : Nat) : Prop := ∀ c ∈ m, c.1 < n

theorem below_write {n a : Nat} (b : Byte) (h : below m n) (ha : a < n) : below (write m a b) n := by
  induction m with
  | nil => intro c hc; simp [write] at hc; simp [hc, ha]
  | cons p m ih =>
    obtain ⟨k, v⟩ := p
    have hk : k < n := h (k, v) (by simp)
    have hm : below m n := fun c hc => h c (by simp [hc])
    intro c hc
    simp only [write] at hc
    split at hc
    · simp at hc; rcases hc with rfl | rfl | hc
      · exact ha
      · exact hk
      · exact hm _ hc
    · split at hc
      · simp at hc; rcases hc with rfl | hc
        · exact ha
        · exact hm _ hc
      · simp at hc; rcases hc with rfl | hc
        · exact hk
        · exact ih hm _ hc

theorem below_writeBytes {n : Nat} (bs : List Byte) (m : Memory) (a : Nat)
    (h : below m n) (ha : a + bs.length ≤ n) : below (writeBytes m a bs) n := by
  induction bs generalizing m a with
  | nil => exact h
  | cons b bs ih =>
    simp at ha
    exact ih _ _ (below_write m b h (by omega)) (by omega)

theorem below_memWrite {n a k v : Nat} (h : below m n) (ha : a + k ≤ n) : below (memWrite m a k v) n :=
  below_writeBytes _ m a h (by simpa using ha)

theorem below_padMessage {n l : Nat} (h : below m n) (hl : capOf l ≤ n) : below (padMessage m l) n := by
  have hcap : l + 9 ≤ capOf l := by simp only [capOf, chunkCount, ceilDiv]; omega
  rw [padMessage]
  exact below_memWrite _ (below_writeBytes _ _ _ (below_write m _ h (by omega)) (by simp; omega)) (by omega)

/-! ### Reading -/

/-- A byte that has been written reads as written, and no draw is made. -/
theorem readByte_of_read? {m : Memory} {a : Nat} {b : Byte} (h : read? m a = some b) (n : Nat) :
    readByte m n a = (b, n) := by simp [readByte, h]

/-- A byte not written since reset reads as the next draw (R78). -/
theorem readByte_of_unwritten {m : Memory} {a : Nat} (h : read? m a = none) (n : Nat) :
    readByte m n a = (Config.freeByte n, n + 1) := by simp [readByte, h]

/-- A read looks only at what `read?` answers for the bytes it covers. -/
theorem readBytes_congr {m m' : Memory} (k n a : Nat) (h : ∀ j < k, read? m (a + j) = read? m' (a + j)) :
    readBytes m n a k = readBytes m' n a k := by
  induction k generalizing n a with
  | zero => rfl
  | succ k ih =>
    have h0 : readByte m n a = readByte m' n a := by
      have := h 0 (by omega); simp at this; simp [readByte, this]
    have ht : ∀ n', readBytes m n' (a + 1) k = readBytes m' n' (a + 1) k := fun n' =>
      ih n' (a + 1) (fun j hj => by have := h (j + 1) (by omega); rwa [show a + 1 + j = a + (j + 1) by omega])
    simp only [readBytes, h0, ht]

theorem readWord_congr {m m' : Memory} (n a : Nat) (h : ∀ j < 4, read? m (a + j) = read? m' (a + j)) :
    readWord m n a = readWord m' n a := by simp only [readWord, readBytes_congr 4 n a h]

theorem readWords_congr {m m' : Memory} (k n a : Nat) (h : ∀ j < 4 * k, read? m (a + j) = read? m' (a + j)) :
    readWords m n a k = readWords m' n a k := by
  induction k generalizing n a with
  | zero => rfl
  | succ k ih =>
    have h0 : readWord m n a = readWord m' n a := readWord_congr n a (fun j hj => h j (by omega))
    have ht : ∀ n', readWords m n' (a + 4) k = readWords m' n' (a + 4) k := fun n' =>
      ih n' (a + 4) (fun j hj => by have := h (j + 4) (by omega); rwa [show a + 4 + j = a + (j + 4) by omega])
    simp only [readWords, h0, ht]

/-- The words of a slot depend on the 64 bytes of the slot only. -/
theorem readBlock_congr {m m' : Memory} (n slot : Nat)
    (h : ∀ a, 64 * slot ≤ a → a < 64 * slot + 64 → read? m a = read? m' a) :
    readBlock m n slot = readBlock m' n slot := by
  rw [readBlock, readBlock]
  exact readWords_congr 16 n (64 * slot) (fun j hj => h _ (by omega) (by omega))

/-- Bytes that have all been written read as written, and no draw is made. -/
theorem readBytes_of_written {m : Memory} (bs : List Byte) (n a : Nat)
    (h : ∀ j < bs.length, read? m (a + j) = bs[j]?) : readBytes m n a bs.length = (bs, n) := by
  induction bs generalizing n a with
  | nil => rfl
  | cons b bs ih =>
    have h0 : read? m a = some b := by simpa using h 0 (by simp)
    have ht := ih n (a + 1) (fun j hj => by
      have := h (j + 1) (by simpa using hj)
      rwa [show a + (j + 1) = a + 1 + j by omega, List.getElem?_cons_succ] at this)
    simp only [List.length_cons, readBytes, readByte_of_read? h0, ht]

/-! ### Equal memories are equal data -/

theorem read?_of_risesFrom {m : Memory} {lo a : Nat} (h : risesFrom (some lo) m = true) (ha : a ≤ lo) :
    read? m a = none := by
  induction m generalizing lo with
  | nil => rfl
  | cons p m ih =>
    obtain ⟨k, v⟩ := p
    simp only [risesFrom, Bool.and_eq_true, decide_eq_true_eq] at h
    rw [read?, if_neg (by omega)]
    exact ih h.2 (by omega)

theorem eq_of_risesFrom {m m' : Memory} {o o' : Option Nat} (h : risesFrom o m = true) (h' : risesFrom o' m' = true)
    (he : ∀ x, read? m x = read? m' x) : m = m' := by
  induction m generalizing o o' m' with
  | nil =>
    cases m' with
    | nil => rfl
    | cons p m' => obtain ⟨k, v⟩ := p; have := he k; simp [read?] at this
  | cons p m ih =>
    obtain ⟨k, v⟩ := p
    have hk : risesFrom (some k) m = true := by cases o <;> simp_all [risesFrom]
    cases m' with
    | nil => have := he k; simp [read?] at this
    | cons p' m' =>
      obtain ⟨k', v'⟩ := p'
      have hk' : risesFrom (some k') m' = true := by cases o' <;> simp_all [risesFrom]
      have hkk : k = k' := by
        by_contra hne
        rcases Nat.lt_or_gt_of_ne hne with hlt | hlt
        · have := he k
          simp only [read?, if_true] at this
          rw [if_neg (by omega), read?_of_risesFrom hk' (by omega)] at this
          cases this
        · have := he k'
          simp only [read?, if_true] at this
          rw [if_neg (by omega), read?_of_risesFrom hk (by omega)] at this
          cases this
      subst hkk
      have hv : v = v' := by simpa [read?] using he k
      subst hv
      rw [ih hk hk' fun x => ?_]
      by_cases hx : k = x
      · subst hx
        rw [read?_of_risesFrom hk (Nat.le_refl _), read?_of_risesFrom hk' (Nat.le_refl _)]
      · simpa [read?, hx] using he x

/-- Two memories in canonical form that hold the same bytes are the same data. -/
theorem eq_of_wf {m m' : Memory} (h : wf m = true) (h' : wf m' = true) (he : ∀ x, read? m x = read? m' x) : m = m' :=
  eq_of_risesFrom h h' he

end Memory

end Sys2Proof.Machine
end

