-- ==== Sys2Proof/Laws/State.lean ====
section
/-! SUPPORT. One lemma per field per update of State, true by definition, so that no later proof unfolds a record update;
and the two shapes of an acceptance. -/

namespace Sys2Proof.Machine

variable (s : State)

@[simp] theorem State.setBuf_buf (m : Memory) : (s.setBuf m).buf = m := (rfl)
@[simp] theorem State.setBuf_acc (m : Memory) : (s.setBuf m).acc = s.acc := (rfl)
@[simp] theorem State.setBuf_dig (m : Memory) : (s.setBuf m).dig = s.dig := (rfl)
@[simp] theorem State.setBuf_len (m : Memory) : (s.setBuf m).len = s.len := (rfl)
@[simp] theorem State.setBuf_busy (m : Memory) : (s.setBuf m).busy = s.busy := (rfl)
@[simp] theorem State.setBuf_done (m : Memory) : (s.setBuf m).done = s.done := (rfl)
@[simp] theorem State.setBuf_ovr (m : Memory) : (s.setBuf m).ovr = s.ovr := (rfl)
@[simp] theorem State.setBuf_err (m : Memory) : (s.setBuf m).err = s.err := (rfl)
@[simp] theorem State.setBuf_ie (m : Memory) : (s.setBuf m).ie = s.ie := (rfl)
@[simp] theorem State.setBuf_pend (m : Memory) : (s.setBuf m).pend = s.pend := (rfl)
@[simp] theorem State.setBuf_cfg (m : Memory) : (s.setBuf m).cfg = s.cfg := (rfl)
@[simp] theorem State.setBuf_script (m : Memory) : (s.setBuf m).script = s.script := (rfl)
@[simp] theorem State.setBuf_turns (m : Memory) : (s.setBuf m).turns = s.turns := (rfl)
@[simp] theorem State.setBuf_responses (m : Memory) : (s.setBuf m).responses = s.responses := (rfl)
@[simp] theorem State.setBuf_draws (m : Memory) : (s.setBuf m).draws = s.draws := (rfl)

@[simp] theorem State.setAcc_buf (q : Quad) : (s.setAcc q).buf = s.buf := (rfl)
@[simp] theorem State.setAcc_acc (q : Quad) : (s.setAcc q).acc = q := (rfl)
@[simp] theorem State.setAcc_dig (q : Quad) : (s.setAcc q).dig = s.dig := (rfl)
@[simp] theorem State.setAcc_len (q : Quad) : (s.setAcc q).len = s.len := (rfl)
@[simp] theorem State.setAcc_busy (q : Quad) : (s.setAcc q).busy = s.busy := (rfl)
@[simp] theorem State.setAcc_done (q : Quad) : (s.setAcc q).done = s.done := (rfl)
@[simp] theorem State.setAcc_ovr (q : Quad) : (s.setAcc q).ovr = s.ovr := (rfl)
@[simp] theorem State.setAcc_err (q : Quad) : (s.setAcc q).err = s.err := (rfl)
@[simp] theorem State.setAcc_ie (q : Quad) : (s.setAcc q).ie = s.ie := (rfl)
@[simp] theorem State.setAcc_pend (q : Quad) : (s.setAcc q).pend = s.pend := (rfl)
@[simp] theorem State.setAcc_cfg (q : Quad) : (s.setAcc q).cfg = s.cfg := (rfl)
@[simp] theorem State.setAcc_script (q : Quad) : (s.setAcc q).script = s.script := (rfl)
@[simp] theorem State.setAcc_turns (q : Quad) : (s.setAcc q).turns = s.turns := (rfl)
@[simp] theorem State.setAcc_responses (q : Quad) : (s.setAcc q).responses = s.responses := (rfl)
@[simp] theorem State.setAcc_draws (q : Quad) : (s.setAcc q).draws = s.draws := (rfl)

@[simp] theorem State.setDig_buf (q : Quad) : (s.setDig q).buf = s.buf := (rfl)
@[simp] theorem State.setDig_acc (q : Quad) : (s.setDig q).acc = s.acc := (rfl)
@[simp] theorem State.setDig_dig (q : Quad) : (s.setDig q).dig = q := (rfl)
@[simp] theorem State.setDig_len (q : Quad) : (s.setDig q).len = s.len := (rfl)
@[simp] theorem State.setDig_busy (q : Quad) : (s.setDig q).busy = s.busy := (rfl)
@[simp] theorem State.setDig_done (q : Quad) : (s.setDig q).done = s.done := (rfl)
@[simp] theorem State.setDig_ovr (q : Quad) : (s.setDig q).ovr = s.ovr := (rfl)
@[simp] theorem State.setDig_err (q : Quad) : (s.setDig q).err = s.err := (rfl)
@[simp] theorem State.setDig_ie (q : Quad) : (s.setDig q).ie = s.ie := (rfl)
@[simp] theorem State.setDig_pend (q : Quad) : (s.setDig q).pend = s.pend := (rfl)
@[simp] theorem State.setDig_cfg (q : Quad) : (s.setDig q).cfg = s.cfg := (rfl)
@[simp] theorem State.setDig_script (q : Quad) : (s.setDig q).script = s.script := (rfl)
@[simp] theorem State.setDig_turns (q : Quad) : (s.setDig q).turns = s.turns := (rfl)
@[simp] theorem State.setDig_responses (q : Quad) : (s.setDig q).responses = s.responses := (rfl)
@[simp] theorem State.setDig_draws (q : Quad) : (s.setDig q).draws = s.draws := (rfl)

@[simp] theorem State.setLen_buf (v : Word) : (s.setLen v).buf = s.buf := (rfl)
@[simp] theorem State.setLen_acc (v : Word) : (s.setLen v).acc = s.acc := (rfl)
@[simp] theorem State.setLen_dig (v : Word) : (s.setLen v).dig = s.dig := (rfl)
@[simp] theorem State.setLen_len (v : Word) : (s.setLen v).len = v := (rfl)
@[simp] theorem State.setLen_busy (v : Word) : (s.setLen v).busy = s.busy := (rfl)
@[simp] theorem State.setLen_done (v : Word) : (s.setLen v).done = s.done := (rfl)
@[simp] theorem State.setLen_ovr (v : Word) : (s.setLen v).ovr = s.ovr := (rfl)
@[simp] theorem State.setLen_err (v : Word) : (s.setLen v).err = s.err := (rfl)
@[simp] theorem State.setLen_ie (v : Word) : (s.setLen v).ie = s.ie := (rfl)
@[simp] theorem State.setLen_pend (v : Word) : (s.setLen v).pend = s.pend := (rfl)
@[simp] theorem State.setLen_cfg (v : Word) : (s.setLen v).cfg = s.cfg := (rfl)
@[simp] theorem State.setLen_script (v : Word) : (s.setLen v).script = s.script := (rfl)
@[simp] theorem State.setLen_turns (v : Word) : (s.setLen v).turns = s.turns := (rfl)
@[simp] theorem State.setLen_responses (v : Word) : (s.setLen v).responses = s.responses := (rfl)
@[simp] theorem State.setLen_draws (v : Word) : (s.setLen v).draws = s.draws := (rfl)

@[simp] theorem State.setDraws_buf (n : Nat) : (s.setDraws n).buf = s.buf := (rfl)
@[simp] theorem State.setDraws_acc (n : Nat) : (s.setDraws n).acc = s.acc := (rfl)
@[simp] theorem State.setDraws_dig (n : Nat) : (s.setDraws n).dig = s.dig := (rfl)
@[simp] theorem State.setDraws_len (n : Nat) : (s.setDraws n).len = s.len := (rfl)
@[simp] theorem State.setDraws_busy (n : Nat) : (s.setDraws n).busy = s.busy := (rfl)
@[simp] theorem State.setDraws_done (n : Nat) : (s.setDraws n).done = s.done := (rfl)
@[simp] theorem State.setDraws_ovr (n : Nat) : (s.setDraws n).ovr = s.ovr := (rfl)
@[simp] theorem State.setDraws_err (n : Nat) : (s.setDraws n).err = s.err := (rfl)
@[simp] theorem State.setDraws_ie (n : Nat) : (s.setDraws n).ie = s.ie := (rfl)
@[simp] theorem State.setDraws_pend (n : Nat) : (s.setDraws n).pend = s.pend := (rfl)
@[simp] theorem State.setDraws_cfg (n : Nat) : (s.setDraws n).cfg = s.cfg := (rfl)
@[simp] theorem State.setDraws_script (n : Nat) : (s.setDraws n).script = s.script := (rfl)
@[simp] theorem State.setDraws_turns (n : Nat) : (s.setDraws n).turns = s.turns := (rfl)
@[simp] theorem State.setDraws_responses (n : Nat) : (s.setDraws n).responses = s.responses := (rfl)
@[simp] theorem State.setDraws_draws (n : Nat) : (s.setDraws n).draws = n := (rfl)

@[simp] theorem State.writeStatus_buf (v : Word) : (s.writeStatus v).buf = s.buf := (rfl)
@[simp] theorem State.writeStatus_acc (v : Word) : (s.writeStatus v).acc = s.acc := (rfl)
@[simp] theorem State.writeStatus_dig (v : Word) : (s.writeStatus v).dig = s.dig := (rfl)
@[simp] theorem State.writeStatus_len (v : Word) : (s.writeStatus v).len = s.len := (rfl)
@[simp] theorem State.writeStatus_busy (v : Word) : (s.writeStatus v).busy = s.busy := (rfl)
@[simp] theorem State.writeStatus_done (v : Word) : (s.writeStatus v).done = (s.done && !v.getLsbD 1) := (rfl)
@[simp] theorem State.writeStatus_ovr (v : Word) : (s.writeStatus v).ovr = (s.ovr && !v.getLsbD 2) := (rfl)
@[simp] theorem State.writeStatus_err (v : Word) : (s.writeStatus v).err = s.err := (rfl)
@[simp] theorem State.writeStatus_ie (v : Word) : (s.writeStatus v).ie = s.ie := (rfl)
@[simp] theorem State.writeStatus_pend (v : Word) : (s.writeStatus v).pend = s.pend := (rfl)
@[simp] theorem State.writeStatus_cfg (v : Word) : (s.writeStatus v).cfg = s.cfg := (rfl)
@[simp] theorem State.writeStatus_script (v : Word) : (s.writeStatus v).script = s.script := (rfl)
@[simp] theorem State.writeStatus_turns (v : Word) : (s.writeStatus v).turns = s.turns := (rfl)
@[simp] theorem State.writeStatus_responses (v : Word) : (s.writeStatus v).responses = s.responses := (rfl)
@[simp] theorem State.writeStatus_draws (v : Word) : (s.writeStatus v).draws = s.draws := (rfl)

@[simp] theorem State.writeCtrl_buf (v : Word) : (s.writeCtrl v).buf = s.buf := (rfl)
@[simp] theorem State.writeCtrl_acc (v : Word) : (s.writeCtrl v).acc = s.acc := (rfl)
@[simp] theorem State.writeCtrl_dig (v : Word) : (s.writeCtrl v).dig = s.dig := (rfl)
@[simp] theorem State.writeCtrl_len (v : Word) : (s.writeCtrl v).len = s.len := (rfl)
@[simp] theorem State.writeCtrl_busy (v : Word) : (s.writeCtrl v).busy = s.busy := (rfl)
@[simp] theorem State.writeCtrl_done (v : Word) : (s.writeCtrl v).done = s.done := (rfl)
@[simp] theorem State.writeCtrl_ovr (v : Word) : (s.writeCtrl v).ovr = s.ovr := (rfl)
@[simp] theorem State.writeCtrl_err (v : Word) : (s.writeCtrl v).err = s.err := (rfl)
@[simp] theorem State.writeCtrl_ie (v : Word) : (s.writeCtrl v).ie = v.getLsbD 0 := (rfl)
@[simp] theorem State.writeCtrl_pend (v : Word) : (s.writeCtrl v).pend = s.pend := (rfl)
@[simp] theorem State.writeCtrl_cfg (v : Word) : (s.writeCtrl v).cfg = s.cfg := (rfl)
@[simp] theorem State.writeCtrl_script (v : Word) : (s.writeCtrl v).script = s.script := (rfl)
@[simp] theorem State.writeCtrl_turns (v : Word) : (s.writeCtrl v).turns = s.turns := (rfl)
@[simp] theorem State.writeCtrl_responses (v : Word) : (s.writeCtrl v).responses = s.responses := (rfl)
@[simp] theorem State.writeCtrl_draws (v : Word) : (s.writeCtrl v).draws = s.draws := (rfl)

@[simp] theorem State.raiseOvr_buf : (s.raiseOvr).buf = s.buf := (rfl)
@[simp] theorem State.raiseOvr_acc : (s.raiseOvr).acc = s.acc := (rfl)
@[simp] theorem State.raiseOvr_dig : (s.raiseOvr).dig = s.dig := (rfl)
@[simp] theorem State.raiseOvr_len : (s.raiseOvr).len = s.len := (rfl)
@[simp] theorem State.raiseOvr_busy : (s.raiseOvr).busy = s.busy := (rfl)
@[simp] theorem State.raiseOvr_done : (s.raiseOvr).done = s.done := (rfl)
@[simp] theorem State.raiseOvr_ovr : (s.raiseOvr).ovr = true := (rfl)
@[simp] theorem State.raiseOvr_err : (s.raiseOvr).err = s.err := (rfl)
@[simp] theorem State.raiseOvr_ie : (s.raiseOvr).ie = s.ie := (rfl)
@[simp] theorem State.raiseOvr_pend : (s.raiseOvr).pend = s.pend := (rfl)
@[simp] theorem State.raiseOvr_cfg : (s.raiseOvr).cfg = s.cfg := (rfl)
@[simp] theorem State.raiseOvr_script : (s.raiseOvr).script = s.script := (rfl)
@[simp] theorem State.raiseOvr_turns : (s.raiseOvr).turns = s.turns := (rfl)
@[simp] theorem State.raiseOvr_responses : (s.raiseOvr).responses = s.responses := (rfl)
@[simp] theorem State.raiseOvr_draws : (s.raiseOvr).draws = s.draws := (rfl)

@[simp] theorem State.passTurn_buf : (s.passTurn).buf = s.buf := (rfl)
@[simp] theorem State.passTurn_acc : (s.passTurn).acc = s.acc := (rfl)
@[simp] theorem State.passTurn_dig : (s.passTurn).dig = s.dig := (rfl)
@[simp] theorem State.passTurn_len : (s.passTurn).len = s.len := (rfl)
@[simp] theorem State.passTurn_busy : (s.passTurn).busy = s.busy := (rfl)
@[simp] theorem State.passTurn_done : (s.passTurn).done = s.done := (rfl)
@[simp] theorem State.passTurn_ovr : (s.passTurn).ovr = s.ovr := (rfl)
@[simp] theorem State.passTurn_err : (s.passTurn).err = s.err := (rfl)
@[simp] theorem State.passTurn_ie : (s.passTurn).ie = s.ie := (rfl)
@[simp] theorem State.passTurn_pend : (s.passTurn).pend = s.pend := (rfl)
@[simp] theorem State.passTurn_cfg : (s.passTurn).cfg = s.cfg := (rfl)
@[simp] theorem State.passTurn_script : (s.passTurn).script = s.script := (rfl)
@[simp] theorem State.passTurn_turns : (s.passTurn).turns = s.turns.tail := (rfl)
@[simp] theorem State.passTurn_responses : (s.passTurn).responses = s.responses := (rfl)
@[simp] theorem State.passTurn_draws : (s.passTurn).draws = s.draws := (rfl)

@[simp] theorem State.answer_buf (r : Response) : (s.answer r).buf = s.buf := (rfl)
@[simp] theorem State.answer_acc (r : Response) : (s.answer r).acc = s.acc := (rfl)
@[simp] theorem State.answer_dig (r : Response) : (s.answer r).dig = s.dig := (rfl)
@[simp] theorem State.answer_len (r : Response) : (s.answer r).len = s.len := (rfl)
@[simp] theorem State.answer_busy (r : Response) : (s.answer r).busy = s.busy := (rfl)
@[simp] theorem State.answer_done (r : Response) : (s.answer r).done = s.done := (rfl)
@[simp] theorem State.answer_ovr (r : Response) : (s.answer r).ovr = s.ovr := (rfl)
@[simp] theorem State.answer_err (r : Response) : (s.answer r).err = s.err := (rfl)
@[simp] theorem State.answer_ie (r : Response) : (s.answer r).ie = s.ie := (rfl)
@[simp] theorem State.answer_pend (r : Response) : (s.answer r).pend = s.pend := (rfl)
@[simp] theorem State.answer_cfg (r : Response) : (s.answer r).cfg = s.cfg := (rfl)
@[simp] theorem State.answer_script (r : Response) : (s.answer r).script = s.script.tail := (rfl)
@[simp] theorem State.answer_turns (r : Response) : (s.answer r).turns = s.turns.tail := (rfl)
@[simp] theorem State.answer_responses (r : Response) : (s.answer r).responses = s.responses ++ [r] := (rfl)
@[simp] theorem State.answer_draws (r : Response) : (s.answer r).draws = s.draws := (rfl)

@[simp] theorem State.answerAgain_buf (r : Response) : (s.answerAgain r).buf = s.buf := (rfl)
@[simp] theorem State.answerAgain_acc (r : Response) : (s.answerAgain r).acc = s.acc := (rfl)
@[simp] theorem State.answerAgain_dig (r : Response) : (s.answerAgain r).dig = s.dig := (rfl)
@[simp] theorem State.answerAgain_len (r : Response) : (s.answerAgain r).len = s.len := (rfl)
@[simp] theorem State.answerAgain_busy (r : Response) : (s.answerAgain r).busy = s.busy := (rfl)
@[simp] theorem State.answerAgain_done (r : Response) : (s.answerAgain r).done = s.done := (rfl)
@[simp] theorem State.answerAgain_ovr (r : Response) : (s.answerAgain r).ovr = s.ovr := (rfl)
@[simp] theorem State.answerAgain_err (r : Response) : (s.answerAgain r).err = s.err := (rfl)
@[simp] theorem State.answerAgain_ie (r : Response) : (s.answerAgain r).ie = s.ie := (rfl)
@[simp] theorem State.answerAgain_pend (r : Response) : (s.answerAgain r).pend = s.pend := (rfl)
@[simp] theorem State.answerAgain_cfg (r : Response) : (s.answerAgain r).cfg = s.cfg := (rfl)
@[simp] theorem State.answerAgain_script (r : Response) : (s.answerAgain r).script = s.script := (rfl)
@[simp] theorem State.answerAgain_turns (r : Response) : (s.answerAgain r).turns = s.turns.tail := (rfl)
@[simp] theorem State.answerAgain_responses (r : Response) : (s.answerAgain r).responses = s.responses ++ [r] := (rfl)
@[simp] theorem State.answerAgain_draws (r : Response) : (s.answerAgain r).draws = s.draws := (rfl)

@[simp] theorem State.reject_buf (code : ErrCode) : (s.reject code).buf = s.buf := (rfl)
@[simp] theorem State.reject_acc (code : ErrCode) : (s.reject code).acc = s.acc := (rfl)
@[simp] theorem State.reject_dig (code : ErrCode) : (s.reject code).dig = s.dig := (rfl)
@[simp] theorem State.reject_len (code : ErrCode) : (s.reject code).len = s.len := (rfl)
@[simp] theorem State.reject_busy (code : ErrCode) : (s.reject code).busy = s.busy := (rfl)
@[simp] theorem State.reject_done (code : ErrCode) : (s.reject code).done = true := (rfl)
@[simp] theorem State.reject_ovr (code : ErrCode) : (s.reject code).ovr = s.ovr := (rfl)
@[simp] theorem State.reject_err (code : ErrCode) : (s.reject code).err = code := (rfl)
@[simp] theorem State.reject_ie (code : ErrCode) : (s.reject code).ie = s.ie := (rfl)
@[simp] theorem State.reject_pend (code : ErrCode) : (s.reject code).pend = s.pend := (rfl)
@[simp] theorem State.reject_cfg (code : ErrCode) : (s.reject code).cfg = s.cfg := (rfl)
@[simp] theorem State.reject_script (code : ErrCode) : (s.reject code).script = s.script := (rfl)
@[simp] theorem State.reject_turns (code : ErrCode) : (s.reject code).turns = s.turns := (rfl)
@[simp] theorem State.reject_responses (code : ErrCode) : (s.reject code).responses = s.responses := (rfl)
@[simp] theorem State.reject_draws (code : ErrCode) : (s.reject code).draws = s.draws := (rfl)

@[simp] theorem State.finish_buf : (s.finish).buf = s.buf := (rfl)
@[simp] theorem State.finish_acc : (s.finish).acc = s.acc := (rfl)
@[simp] theorem State.finish_dig : (s.finish).dig = s.dig := (rfl)
@[simp] theorem State.finish_len : (s.finish).len = s.len := (rfl)
@[simp] theorem State.finish_busy : (s.finish).busy = false := (rfl)
@[simp] theorem State.finish_done : (s.finish).done = true := (rfl)
@[simp] theorem State.finish_ovr : (s.finish).ovr = s.ovr := (rfl)
@[simp] theorem State.finish_err : (s.finish).err = s.err := (rfl)
@[simp] theorem State.finish_ie : (s.finish).ie = s.ie := (rfl)
@[simp] theorem State.finish_pend : (s.finish).pend = none := (rfl)
@[simp] theorem State.finish_cfg : (s.finish).cfg = s.cfg := (rfl)
@[simp] theorem State.finish_script : (s.finish).script = s.script := (rfl)
@[simp] theorem State.finish_turns : (s.finish).turns = s.turns := (rfl)
@[simp] theorem State.finish_responses : (s.finish).responses = s.responses := (rfl)
@[simp] theorem State.finish_draws : (s.finish).draws = s.draws := (rfl)

@[simp] theorem State.assertReset_buf : (s.assertReset).buf = [] := (rfl)
@[simp] theorem State.assertReset_acc : (s.assertReset).acc = iv := (rfl)
@[simp] theorem State.assertReset_dig : (s.assertReset).dig = { a := 0#32, b := 0#32, c := 0#32, d := 0#32 } := (rfl)
@[simp] theorem State.assertReset_len : (s.assertReset).len = 0#32 := (rfl)
@[simp] theorem State.assertReset_busy : (s.assertReset).busy = false := (rfl)
@[simp] theorem State.assertReset_done : (s.assertReset).done = false := (rfl)
@[simp] theorem State.assertReset_ovr : (s.assertReset).ovr = false := (rfl)
@[simp] theorem State.assertReset_err : (s.assertReset).err = .none := (rfl)
@[simp] theorem State.assertReset_ie : (s.assertReset).ie = false := (rfl)
@[simp] theorem State.assertReset_pend : (s.assertReset).pend = none := (rfl)
@[simp] theorem State.assertReset_cfg : (s.assertReset).cfg = s.cfg := (rfl)
@[simp] theorem State.assertReset_script : (s.assertReset).script = s.script := (rfl)
@[simp] theorem State.assertReset_turns : (s.assertReset).turns = s.turns.tail := (rfl)
@[simp] theorem State.assertReset_responses : (s.assertReset).responses = s.responses := (rfl)
@[simp] theorem State.assertReset_draws : (s.assertReset).draws = s.draws := (rfl)

@[simp] theorem initEffect_buf : (initEffect s).buf = s.buf := by
  simp [initEffect]
@[simp] theorem initEffect_acc : (initEffect s).acc = iv := by
  simp [initEffect]
@[simp] theorem initEffect_dig : (initEffect s).dig = s.dig := by
  simp [initEffect]
@[simp] theorem initEffect_len : (initEffect s).len = s.len := by
  simp [initEffect]
@[simp] theorem initEffect_busy : (initEffect s).busy = s.busy := by
  simp [initEffect]
@[simp] theorem initEffect_done : (initEffect s).done = s.done := by
  simp [initEffect]
@[simp] theorem initEffect_ovr : (initEffect s).ovr = s.ovr := by
  simp [initEffect]
@[simp] theorem initEffect_err : (initEffect s).err = s.err := by
  simp [initEffect]
@[simp] theorem initEffect_ie : (initEffect s).ie = s.ie := by
  simp [initEffect]
@[simp] theorem initEffect_pend : (initEffect s).pend = s.pend := by
  simp [initEffect]
@[simp] theorem initEffect_cfg : (initEffect s).cfg = s.cfg := by
  simp [initEffect]
@[simp] theorem initEffect_script : (initEffect s).script = s.script := by
  simp [initEffect]
@[simp] theorem initEffect_turns : (initEffect s).turns = s.turns := by
  simp [initEffect]
@[simp] theorem initEffect_responses : (initEffect s).responses = s.responses := by
  simp [initEffect]
@[simp] theorem initEffect_draws : (initEffect s).draws = s.draws := by
  simp [initEffect]

@[simp] theorem finalEffect_buf : (finalEffect s).buf = s.buf := by
  simp [finalEffect]
@[simp] theorem finalEffect_acc : (finalEffect s).acc = s.acc := by
  simp [finalEffect]
@[simp] theorem finalEffect_dig : (finalEffect s).dig = s.acc := by
  simp [finalEffect]
@[simp] theorem finalEffect_len : (finalEffect s).len = s.len := by
  simp [finalEffect]
@[simp] theorem finalEffect_busy : (finalEffect s).busy = s.busy := by
  simp [finalEffect]
@[simp] theorem finalEffect_done : (finalEffect s).done = s.done := by
  simp [finalEffect]
@[simp] theorem finalEffect_ovr : (finalEffect s).ovr = s.ovr := by
  simp [finalEffect]
@[simp] theorem finalEffect_err : (finalEffect s).err = s.err := by
  simp [finalEffect]
@[simp] theorem finalEffect_ie : (finalEffect s).ie = s.ie := by
  simp [finalEffect]
@[simp] theorem finalEffect_pend : (finalEffect s).pend = s.pend := by
  simp [finalEffect]
@[simp] theorem finalEffect_cfg : (finalEffect s).cfg = s.cfg := by
  simp [finalEffect]
@[simp] theorem finalEffect_script : (finalEffect s).script = s.script := by
  simp [finalEffect]
@[simp] theorem finalEffect_turns : (finalEffect s).turns = s.turns := by
  simp [finalEffect]
@[simp] theorem finalEffect_responses : (finalEffect s).responses = s.responses := by
  simp [finalEffect]
@[simp] theorem finalEffect_draws : (finalEffect s).draws = s.draws := by
  simp [finalEffect]

@[simp] theorem padEffect_buf : (padEffect s).buf = s.buf.padMessage s.len.toNat := by
  simp [padEffect]
@[simp] theorem padEffect_acc : (padEffect s).acc = s.acc := by
  simp [padEffect]
@[simp] theorem padEffect_dig : (padEffect s).dig = s.dig := by
  simp [padEffect]
@[simp] theorem padEffect_len : (padEffect s).len = s.len := by
  simp [padEffect]
@[simp] theorem padEffect_busy : (padEffect s).busy = s.busy := by
  simp [padEffect]
@[simp] theorem padEffect_done : (padEffect s).done = s.done := by
  simp [padEffect]
@[simp] theorem padEffect_ovr : (padEffect s).ovr = s.ovr := by
  simp [padEffect]
@[simp] theorem padEffect_err : (padEffect s).err = s.err := by
  simp [padEffect]
@[simp] theorem padEffect_ie : (padEffect s).ie = s.ie := by
  simp [padEffect]
@[simp] theorem padEffect_pend : (padEffect s).pend = s.pend := by
  simp [padEffect]
@[simp] theorem padEffect_cfg : (padEffect s).cfg = s.cfg := by
  simp [padEffect]
@[simp] theorem padEffect_script : (padEffect s).script = s.script := by
  simp [padEffect]
@[simp] theorem padEffect_turns : (padEffect s).turns = s.turns := by
  simp [padEffect]
@[simp] theorem padEffect_responses : (padEffect s).responses = s.responses := by
  simp [padEffect]
@[simp] theorem padEffect_draws : (padEffect s).draws = s.draws := by
  simp [padEffect]

@[simp] theorem compressEffect_buf (blk : Nat) : (compressEffect blk s).buf = s.buf := by
  simp [compressEffect]
@[simp] theorem compressEffect_acc (blk : Nat) : (compressEffect blk s).acc =
    compressBlock s.acc (s.buf.readBlock s.draws blk).1 := by
  simp [compressEffect]
@[simp] theorem compressEffect_dig (blk : Nat) : (compressEffect blk s).dig = s.dig := by
  simp [compressEffect]
@[simp] theorem compressEffect_len (blk : Nat) : (compressEffect blk s).len = s.len := by
  simp [compressEffect]
@[simp] theorem compressEffect_busy (blk : Nat) : (compressEffect blk s).busy = s.busy := by
  simp [compressEffect]
@[simp] theorem compressEffect_done (blk : Nat) : (compressEffect blk s).done = s.done := by
  simp [compressEffect]
@[simp] theorem compressEffect_ovr (blk : Nat) : (compressEffect blk s).ovr = s.ovr := by
  simp [compressEffect]
@[simp] theorem compressEffect_err (blk : Nat) : (compressEffect blk s).err = s.err := by
  simp [compressEffect]
@[simp] theorem compressEffect_ie (blk : Nat) : (compressEffect blk s).ie = s.ie := by
  simp [compressEffect]
@[simp] theorem compressEffect_pend (blk : Nat) : (compressEffect blk s).pend = s.pend := by
  simp [compressEffect]
@[simp] theorem compressEffect_cfg (blk : Nat) : (compressEffect blk s).cfg = s.cfg := by
  simp [compressEffect]
@[simp] theorem compressEffect_script (blk : Nat) : (compressEffect blk s).script = s.script := by
  simp [compressEffect]
@[simp] theorem compressEffect_turns (blk : Nat) : (compressEffect blk s).turns = s.turns := by
  simp [compressEffect]
@[simp] theorem compressEffect_responses (blk : Nat) : (compressEffect blk s).responses = s.responses := by
  simp [compressEffect]
@[simp] theorem compressEffect_draws (blk : Nat) : (compressEffect blk s).draws =
    (s.buf.readBlock s.draws blk).2 := by
  simp [compressEffect]

theorem State.accept_nop : s.accept .nop = { s with err := .none, done := true } := rfl

theorem State.accept_of_ne (i : Instr) (h : i ≠ .nop) :
    s.accept i = { s with err := .none, done := false, pend := some i, busy := true } := if_neg h

end Sys2Proof.Machine
end

