-- ==== Sys2Proof/Laws/Command.lean ====
section
/-! SUPPORT. What exec and step can do, each said once: exec is the life of a command with that command's check and effect;
a step is one of the cases of `step_cases`. Note for proofs: never let Lean compare `compressBlock …` or
`Memory.readBlock …` with a variable by unfolding (it would unroll 64 rounds): rewrite with the lemmas here and in
Laws/State.lean, which are not rfl-lemmas, rather than with rfl. -/

namespace Sys2Proof.Machine

variable {s t : State} {i : Instr}

/-- The buffer right after reset is in the canonical form: nothing is listed. -/
theorem reset_buf_wf : State.reset.buf.wf = true := rfl

/-! ### Whose turn it is -/

@[simp] theorem mover_cons {x : Turn} {xs : List Turn} (h : s.turns = x :: xs) : s.mover = x := by
  simp [State.mover, h]

theorem mover_nil (h : s.turns = []) : s.mover = if s.busy then .engine else .host := by
  simp [State.mover, h]

/-! ### exec -/

/-- Every meaning is the life of its command, with its check and its effect. -/
theorem exec_eq (i : Instr) (s : State) : exec i s = .next (s.command i (rangeCheck i s) (effect i)) := by
  cases i with
  | nop => rw [exec, execNop, rangeCheck, effect]
  | digest => rw [exec, execDigest, rangeCheck, effect]
  | pad => rw [exec, execPad, rangeCheck, effect]
  | init => rw [exec, execInit, rangeCheck, effect]
  | compress blk => rw [exec, execCompress, rangeCheck, effect]
  | final => rw [exec, execFinal, rangeCheck, effect]

theorem exec_runs (h : s.runs i) : exec i s = .next (effect i s).finish.passTurn := by
  rw [exec_eq, State.command, if_pos h, State.complete]

theorem exec_presents (h : ¬ s.runs i) : exec i s = .next (s.present i (rangeCheck i s)) := by
  rw [exec_eq, State.command, if_neg h]

theorem not_runs_of_host (h : s.mover = .host) : ¬ s.runs i := by simp [h]

theorem not_runs_of_pend (h : s.pend = none) : ¬ s.runs i := by simp [h]

theorem present_busy {code : ErrCode} (h : s.busy = true) :
    s.present i code = s.raiseOvr.answer (.write .ok) := by simp [State.present, h]

theorem present_accept (h : s.busy = false) :
    s.present i .none = (s.accept i).answer (.write .ok) := by simp [State.present, h]

theorem present_reject {code : ErrCode} (h : s.busy = false) (hc : code ≠ .none) :
    s.present i code = (s.reject code).answer (.write .ok) := by simp [State.present, h, hc]

/-- The three ways a presented command ends (R111). -/
theorem present_cases (i : Instr) (code : ErrCode) (s : State) :
    (s.busy = true ∧ s.present i code = s.raiseOvr.answer (.write .ok)) ∨
    (s.busy = false ∧ code = .none ∧ s.present i code = (s.accept i).answer (.write .ok)) ∨
    (s.busy = false ∧ code ≠ .none ∧ s.present i code = (s.reject code).answer (.write .ok)) := by
  cases h : s.busy
  · by_cases hc : code = .none
    · exact .inr (.inl ⟨rfl, hc, by rw [hc, present_accept h]⟩)
    · exact .inr (.inr ⟨rfl, hc, present_reject h hc⟩)
  · exact .inl ⟨rfl, present_busy h⟩

/-! ### The block loop of DIGEST -/

/-- The loop writes the accumulators and makes draws, nothing else. -/
theorem compressSlots_eq (n : Nat) (s : State) :
    compressSlots n s = (s.setAcc (compressSlots n s).acc).setDraws (compressSlots n s).draws := by
  induction n with
  | zero => cases s; rfl
  | succ n ih =>
    rw [compressSlots, ih]
    generalize (compressSlots n s).acc = q
    generalize (compressSlots n s).draws = k
    rw [compressEffect]
    generalize hq : compressBlock _ _ = q'
    generalize hk : ((State.setDraws k (State.setAcc q s)).buf.readBlock _ n).2 = k'
    cases s; rfl

@[simp] theorem compressSlots_buf (n : Nat) (s : State) : (compressSlots n s).buf = s.buf := by
  rw [compressSlots_eq]; simp
@[simp] theorem compressSlots_dig (n : Nat) (s : State) : (compressSlots n s).dig = s.dig := by
  rw [compressSlots_eq]; simp
@[simp] theorem compressSlots_len (n : Nat) (s : State) : (compressSlots n s).len = s.len := by
  rw [compressSlots_eq]; simp
@[simp] theorem compressSlots_busy (n : Nat) (s : State) : (compressSlots n s).busy = s.busy := by
  rw [compressSlots_eq]; simp
@[simp] theorem compressSlots_done (n : Nat) (s : State) : (compressSlots n s).done = s.done := by
  rw [compressSlots_eq]; simp
@[simp] theorem compressSlots_ovr (n : Nat) (s : State) : (compressSlots n s).ovr = s.ovr := by
  rw [compressSlots_eq]; simp
@[simp] theorem compressSlots_err (n : Nat) (s : State) : (compressSlots n s).err = s.err := by
  rw [compressSlots_eq]; simp
@[simp] theorem compressSlots_ie (n : Nat) (s : State) : (compressSlots n s).ie = s.ie := by
  rw [compressSlots_eq]; simp
@[simp] theorem compressSlots_pend (n : Nat) (s : State) : (compressSlots n s).pend = s.pend := by
  rw [compressSlots_eq]; simp
@[simp] theorem compressSlots_cfg (n : Nat) (s : State) : (compressSlots n s).cfg = s.cfg := by
  rw [compressSlots_eq]; simp
@[simp] theorem compressSlots_script (n : Nat) (s : State) : (compressSlots n s).script = s.script := by
  rw [compressSlots_eq]; simp
@[simp] theorem compressSlots_turns (n : Nat) (s : State) : (compressSlots n s).turns = s.turns := by
  rw [compressSlots_eq]; simp
@[simp] theorem compressSlots_responses (n : Nat) (s : State) : (compressSlots n s).responses = s.responses := by
  rw [compressSlots_eq]; simp

/-- What no effect touches: only BUF, ACC, DIG and the draw counter can change (10_state.md R43). -/
theorem effect_frame (i : Instr) (s : State) :
    (effect i s).len = s.len ∧ (effect i s).busy = s.busy ∧ (effect i s).done = s.done ∧ (effect i s).ovr = s.ovr ∧
    (effect i s).err = s.err ∧ (effect i s).ie = s.ie ∧ (effect i s).pend = s.pend ∧ (effect i s).cfg = s.cfg ∧
    (effect i s).script = s.script ∧ (effect i s).turns = s.turns ∧ (effect i s).responses = s.responses := by
  cases i <;> simp [effect, digestEffect]

/-! ### step -/

/-- What a step from `s` can be, with the state it leads to. -/
inductive StepTo (s : State) : State → Prop where
  /-- The engine completes the running command (R115). -/
  | completes (i : Instr) (hm : s.mover = .engine) (hp : s.pend = some i) : StepTo s (effect i s).finish.passTurn
  /-- The engine's turn with no running command. -/
  | engineRests (hm : s.mover = .engine) (hp : s.pend = none) : StepTo s s.passTurn
  /-- The reset input is low (R251). -/
  | resets (hm : s.mover = .reset) : StepTo s s.assertReset
  /-- The host's turn with no transaction left. -/
  | hostRests (hm : s.mover = .host) (hs : s.script = []) : StepTo s s.passTurn
  /-- The host reads. -/
  | reads (off size : Nat) (ls : List Line) (hm : s.mover = .host) (hs : s.script = .read off size :: ls) :
      StepTo s (s.hostRead off size)
  /-- The host polls. -/
  | polls (off : Nat) (mask val : Word) (ls : List Line) (hm : s.mover = .host)
      (hs : s.script = .poll off mask val :: ls) : StepTo s (s.hostPoll off mask val)
  /-- A CMD write while busy (R112). -/
  | drops (off size : Nat) (v : Word) (ls : List Line) (hm : s.mover = .host) (hs : s.script = .write off size v :: ls)
      (hx : selectTarget s.cfg off size = some .cmd) (hb : s.busy = true) :
      StepTo s (s.raiseOvr.answer (.write .ok))
  /-- A CMD write, while idle, of a word that spells no command (R113). -/
  | rejectsWord (off size : Nat) (v : Word) (ls : List Line) (why : BadCmd) (hm : s.mover = .host)
      (hs : s.script = .write off size v :: ls) (hx : selectTarget s.cfg off size = some .cmd)
      (hb : s.busy = false) (hd : decode v = .badcmd why) : StepTo s ((s.reject .badcmd).answer (.write .ok))
  /-- A CMD write, while idle, of a command: accepted or rejected by its range check (R111). -/
  | presents (off size : Nat) (v : Word) (ls : List Line) (i : Instr) (hm : s.mover = .host)
      (hs : s.script = .write off size v :: ls) (hx : selectTarget s.cfg off size = some .cmd)
      (hb : s.busy = false) (hd : decode v = .cmd i) : StepTo s (s.present i (rangeCheck i s))
  /-- A write of another writable target (R66, step 4). -/
  | writes (off size : Nat) (v : Word) (ls : List Line) (x : Target) (hm : s.mover = .host)
      (hs : s.script = .write off size v :: ls) (hx : selectTarget s.cfg off size = some x) (hc : x ≠ .cmd)
      (hw : x.writable = true) : StepTo s ((s.writeTarget v x).answer (.write .ok))
  /-- A write that raises BusError (R66, R67). -/
  | writeFails (off size : Nat) (v : Word) (ls : List Line) (hm : s.mover = .host)
      (hs : s.script = .write off size v :: ls)
      (hx : ∀ x, selectTarget s.cfg off size = some x → x.writable = false) : StepTo s (s.answer (.write .err))

theorem step_of_state (h : s.fetch = .state t) : step s = .next t := by simp [step, h]

/-- A step whose fetch is an instruction is exec of it. -/
theorem step_of_instr (h : s.fetch = .instr i) : step s = exec i s := by simp [step, h]

theorem fetch_write {off size : Nat} {v : Word} {ls : List Line} (hm : s.mover = .host)
    (hs : s.script = .write off size v :: ls) : s.fetch = s.hostWrite off size v := by
  simp [State.fetch, hm, State.hostTurn, hs]

/-- Every step answers a next state, and it is one of the cases of StepTo. -/
theorem step_stepTo (s : State) : ∃ t, step s = .next t ∧ StepTo s t := by
  cases hm : s.mover with
  | reset => exact ⟨_, by simp [step, State.fetch, hm], .resets hm⟩
  | engine =>
    cases hp : s.pend with
    | none => exact ⟨_, by simp [step, State.fetch, hm, State.engineTurn, hp], .engineRests hm hp⟩
    | some i =>
      refine ⟨_, ?_, .completes i hm hp⟩
      rw [← exec_runs ⟨hm, hp⟩]
      simp [step, State.fetch, hm, State.engineTurn, hp]
  | host =>
    cases hs : s.script with
    | nil => exact ⟨_, by simp [step, State.fetch, hm, State.hostTurn, hs], .hostRests hm hs⟩
    | cons l ls =>
      cases l with
      | read off size => exact ⟨_, by simp [step, State.fetch, hm, State.hostTurn, hs], .reads _ _ _ hm hs⟩
      | poll off mask val => exact ⟨_, by simp [step, State.fetch, hm, State.hostTurn, hs], .polls _ _ _ _ hm hs⟩
      | write off size v =>
        have hf := fetch_write hm hs
        cases hx : selectTarget s.cfg off size with
        | none => exact ⟨_, step_of_state (by simp [hf, State.hostWrite, hx]), .writeFails _ _ _ _ hm hs (by simp [hx])⟩
        | some x =>
          by_cases hc : x = .cmd
          · subst hc
            cases hb : s.busy
            · cases hd : decode v with
              | badcmd why =>
                exact ⟨_, step_of_state (by simp [hf, State.hostWrite, hx, State.cmdWrite, hb, hd]),
                  .rejectsWord _ _ _ _ _ hm hs hx hb hd⟩
              | cmd i =>
                refine ⟨_, ?_, .presents _ _ _ _ _ hm hs hx hb hd⟩
                rw [← exec_presents (not_runs_of_host hm)]
                exact step_of_instr (by simp [hf, State.hostWrite, hx, State.cmdWrite, hb, hd])
            · exact ⟨_, step_of_state (by simp [hf, State.hostWrite, hx, State.cmdWrite, hb]), .drops _ _ _ _ hm hs hx hb⟩
          · cases hw : x.writable
            · exact ⟨_, step_of_state (by simp [hf, State.hostWrite, hx, hc, hw]),
                .writeFails _ _ _ _ hm hs (by simp [hx, hw])⟩
            · exact ⟨_, step_of_state (by simp [hf, State.hostWrite, hx, hc, hw]), .writes _ _ _ _ _ hm hs hx hc hw⟩

/-- The inversion of a step. -/
theorem step_inv (h : step s = .next t) : StepTo s t := by
  obtain ⟨t', ht, hs⟩ := step_stepTo s
  rw [ht] at h
  cases h
  exact hs

end Sys2Proof.Machine
end

