-- ==== Sys2Proof/Laws/Bus.lean ====
section
/-! SUPPORT. Which offsets select what, and what a step of the host is on each kind of transaction (20_memory.md R61, R66;
40_commands.md R111). -/

namespace Sys2Proof.Machine

/-! ### The aperture -/

/-- BUF_BYTES is a multiple of 64 between 64 and 4194304 (R10). -/
theorem bufBytes_bounds (c : Config) : 64 ≤ c.bufBytes ∧ c.bufBytes ≤ 4194304 ∧ c.bufBytes % 64 = 0 := by
  have := c.lastSlot.isLt
  unfold Config.bufBytes
  omega

/-- `ceilLog2` is what R10 and R12 say: the least k with n <= 2^k. -/
theorem ceilLog2_le_iff {n k : Nat} (h : 2 ≤ n) : ceilLog2 n ≤ k ↔ n ≤ 2 ^ k := by
  have := Nat.log2_lt (n := n - 1) (k := k) (by omega)
  unfold ceilLog2
  omega

/-- The port reaches every offset the map names (R10, R61). -/
theorem map_le_aperture (c : Config) : 0x1000 + c.bufBytes ≤ 2 ^ c.addrW :=
  (ceilLog2_le_iff (by omega)).mp (Nat.le_add_right _ _)

theorem lt_aperture (c : Config) {off : Nat} (h : off < 0x1000 + c.bufBytes) : off < 2 ^ c.addrW :=
  Nat.lt_of_lt_of_le h (map_le_aperture c)

/-- The width of the port never decides what a legal transaction selects: beyond it everything is unmapped anyway. -/
theorem selectTarget_eq (c : Config) (off size : Nat) :
    selectTarget c off size = if size = 4 ∧ off % 4 = 0 then regionAt c.bufBytes off else none := by
  unfold selectTarget
  by_cases h : off < 2 ^ c.addrW
  · simp [h]
  · have := mt (lt_aperture c) h
    simp only [h, and_false, if_false, regionAt]
    split_ifs <;> first | rfl | omega

/-- Below 0x100 an aligned offset selects a register or nothing. -/
theorem selectTarget_low (c : Config) {off : Nat} (h : off < 0x100) :
    selectTarget c off 4 = if off % 4 = 0 then registerAt off else none := by
  simp [selectTarget_eq, regionAt, h]

/-- An aligned offset of the BUF window selects its buffer word. -/
theorem selectTarget_window {c : Config} {a : Nat} (h : a < c.bufBytes) (h4 : a % 4 = 0) :
    selectTarget c (0x1000 + a) 4 = some (.buf a) := by
  rw [selectTarget_eq, regionAt]
  rw [if_pos ⟨rfl, by omega⟩, if_neg (by omega), if_neg (by omega), if_neg (by omega), if_neg (by omega),
    if_pos (by omega)]
  simp

/-- The offsets that select a target. -/
def offsetSelects (bufBytes off : Nat) : Target → Prop
  | .id => off = 0x000
  | .cmd => off = 0x004
  | .status => off = 0x008
  | .ctrl => off = 0x00C
  | .len => off = 0x010
  | .chunks => off = 0x014
  | .cap => off = 0x018
  | .acc .a => off = 0x020
  | .acc .b => off = 0x024
  | .acc .c => off = 0x028
  | .acc .d => off = 0x02C
  | .digest .a => off = 0x030
  | .digest .b => off = 0x034
  | .digest .c => off = 0x038
  | .digest .d => off = 0x03C
  | .krom i => i < 64 ∧ off = 0x100 + 4 * i
  | .srom i => i < 64 ∧ off = 0x200 + 4 * i
  | .buf a => off = 0x1000 + a ∧ a < bufBytes

/-- What selecting a target says of the size and the offset (R61, R65, R66). -/
theorem selectTarget_inv {c : Config} {off size : Nat} {x : Target} (h : selectTarget c off size = some x) :
    size = 4 ∧ off % 4 = 0 ∧ offsetSelects c.bufBytes off x := by
  simp only [selectTarget_eq, regionAt] at h
  split at h
  · rename_i h4
    refine ⟨h4.1, h4.2, ?_⟩
    split at h
    · unfold registerAt at h
      split at h <;> first | (injection h with h; subst h; rfl) | cases h
    · split_ifs at h
      all_goals (injection h with h; subst h; simp only [offsetSelects]; omega)
  · cases h

/-- Only the aligned word at 0x004 selects CMD. -/
theorem selectTarget_cmd_inv {c : Config} {off size : Nat} (h : selectTarget c off size = some .cmd) :
    off = 0x004 ∧ size = 4 :=
  ⟨(selectTarget_inv h).2.2, (selectTarget_inv h).1⟩

@[simp] theorem selectTarget_cmd (c : Config) : selectTarget c 0x004 4 = some .cmd := by
  simp [selectTarget_eq, regionAt, registerAt]

/-! ### A step of the host -/

variable {s : State}

theorem script_of_hostMakes {l : Line} (h : s.hostMakes l) : s.script = l :: s.script.tail := by
  have h2 := h.2
  cases hs : s.script with
  | nil => simp [hs] at h2
  | cons a b => simp [hs] at h2; simp [h2]

theorem hostMakes_of_script {l : Line} {ls : List Line} (hm : s.mover = .host) (hs : s.script = l :: ls) :
    s.hostMakes l := ⟨hm, by simp [hs]⟩

theorem step_read {off size : Nat} (h : s.hostMakes (.read off size)) : step s = .next (s.hostRead off size) := by
  obtain ⟨ls, hs⟩ : ∃ ls, s.script = .read off size :: ls := ⟨_, script_of_hostMakes h⟩
  exact step_of_state (by simp [State.fetch, h.1, State.hostTurn, hs])

theorem step_poll {off : Nat} {mask val : Word} (h : s.hostMakes (.poll off mask val)) :
    step s = .next (s.hostPoll off mask val) := by
  obtain ⟨ls, hs⟩ : ∃ ls, s.script = .poll off mask val :: ls := ⟨_, script_of_hostMakes h⟩
  exact step_of_state (by simp [State.fetch, h.1, State.hostTurn, hs])

/-- A write of a writable target other than CMD. -/
theorem step_write {off size : Nat} {v : Word} {x : Target} (h : s.hostMakes (.write off size v))
    (hx : selectTarget s.cfg off size = some x) (hc : x ≠ .cmd) (hw : x.writable = true) :
    step s = .next ((s.writeTarget v x).answer (.write .ok)) :=
  step_of_state (by simp [fetch_write h.1 (script_of_hostMakes h), State.hostWrite, hx, hc, hw])

/-- A write the aperture does not admit (R67). -/
theorem step_write_fails {off size : Nat} {v : Word} (h : s.hostMakes (.write off size v))
    (hx : ∀ x, selectTarget s.cfg off size = some x → x.writable = false) :
    step s = .next (s.answer (.write .err)) := by
  apply step_of_state
  cases hs : selectTarget s.cfg off size with
  | none => simp [fetch_write h.1 (script_of_hostMakes h), State.hostWrite, hs]
  | some x =>
    have hw := hx x hs
    have hc : x ≠ .cmd := by rintro rfl; simp [Target.writable] at hw
    simp [fetch_write h.1 (script_of_hostMakes h), State.hostWrite, hs, hc, hw]

/-- A CMD write while busy (R112). -/
theorem step_command_busy {w : Word} (h : s.hostMakes (.write 0x004 4 w)) (hb : s.busy = true) :
    step s = .next (s.raiseOvr.answer (.write .ok)) :=
  step_of_state (by simp [fetch_write h.1 (script_of_hostMakes h), State.hostWrite, State.cmdWrite, hb])

/-- A CMD write, while idle, of a word that spells no command (R113). -/
theorem step_command_bad {w : Word} {why : BadCmd} (h : s.hostMakes (.write 0x004 4 w)) (hb : s.busy = false)
    (hd : decode w = .badcmd why) : step s = .next ((s.reject .badcmd).answer (.write .ok)) :=
  step_of_state (by simp [fetch_write h.1 (script_of_hostMakes h), State.hostWrite, State.cmdWrite, hb, hd])

/-- A CMD write, busy or idle, of a word that spells a command (R111). -/
theorem step_command {w : Word} {i : Instr} (h : s.hostMakes (.write 0x004 4 w)) (hd : decode w = .cmd i) :
    step s = .next (s.present i (rangeCheck i s)) := by
  cases hb : s.busy
  · rw [← exec_presents (not_runs_of_host h.1)]
    exact step_of_instr (by simp [fetch_write h.1 (script_of_hostMakes h), State.hostWrite, State.cmdWrite, hb, hd])
  · rw [present_busy hb, step_command_busy h hb]

/-! ### Turns -/

/-- A completed run of one step more. -/
theorem run_succ {t : State} (k : Nat) (h : step s = .next t) : core.run (k + 1) s = core.run k t := by
  simp only [Host.Core.run]
  simp [core, h]

/-- No step changes the configuration, and a step leaves the script or takes its first line off. -/
theorem cfg_script_of_step {t : State} (h : step s = .next t) :
    t.cfg = s.cfg ∧ (t.script = s.script ∨ t.script = s.script.tail) := by
  cases step_inv h with
  | completes i hm hp => have := effect_frame i s; simp [this]
  | reads off size ls hm hs => simp [State.hostRead]
  | polls off mask val ls hm hs => unfold State.hostPoll; split <;> simp [State.hostRead]
  | presents off size v ls i hm hs hx hb hdec =>
    rcases present_cases i (rangeCheck i s) s with ⟨-, e⟩ | ⟨-, -, e⟩ | ⟨-, -, e⟩ <;> rw [e]
    · simp
    · unfold State.accept; split <;> simp
    · simp
  | writes off size v ls x hm hs hx hc hw =>
    cases x <;> simp [State.writeTarget, State.writeIdle] <;> split <;> simp
  | _ => simp

/-- Every step takes one turn. -/
theorem turns_of_step {t : State} (h : step s = .next t) : t.turns = s.turns.tail := by
  cases step_inv h with
  | completes i hm hp => simp [(effect_frame i s).2.2.2.2.2.2.2.2.2.1]
  | polls off mask val ls hm hs => unfold State.hostPoll; split <;> rfl
  | writes off size v ls x hm hs hx hc hw =>
    cases x <;> simp [State.writeTarget, State.writeIdle] <;> split <;> simp
  | presents off size v ls i hm hs hx hb2 hdec =>
    rcases present_cases i (rangeCheck i s) s with ⟨hb2, e⟩ | ⟨-, hc, e⟩ | ⟨-, -, e⟩ <;> rw [e]
    · simp
    · unfold State.accept; split <;> simp
    · simp
  | _ => rfl

end Sys2Proof.Machine
end

