-- ==== Sys2Proof/Laws/Decode.lean ====
section
/-! SUPPORT. The fields of a command word, of an encoded one and of one put together again. -/

namespace Sys2Proof

theorem opField_lt (w : Word) : opField w < 256 := (w.extractLsb' 0 8).isLt

theorem rsvField_lt (w : Word) : rsvField w < 256 := (w.extractLsb' 8 8).isLt

theorem blkField_lt (w : Word) : blkField w < 65536 := (w.extractLsb' 16 16).isLt

theorem opField_eq (w : Word) : opField w = w.toNat % 256 := by simp [opField]

theorem rsvField_eq (w : Word) : rsvField w = w.toNat / 256 % 256 := by
  simp [rsvField, Nat.shiftRight_eq_div_pow]

theorem blkField_eq (w : Word) : blkField w = w.toNat / 65536 := by
  have := w.isLt
  simp only [blkField, BitVec.extractLsb'_toNat, Nat.shiftRight_eq_div_pow]
  omega

theorem opcode_lt (i : Instr) : opcode i < 256 := by cases i <;> simp [opcode]

theorem encode_toNat (i : Instr) : (encode i).toNat = blkOperand i % 65536 * 65536 + opcode i := by
  have h8 := opcode_lt i
  simp only [encode, BitVec.toNat_append, BitVec.toNat_ofNat]
  rw [Nat.mod_eq_of_lt (a := opcode i) (by simpa using h8)]
  simp only [Nat.shiftLeft_eq]
  rw [← Nat.shiftLeft_eq, ← Nat.shiftLeft_add_eq_or_of_lt (by simpa using h8)]
  simp [Nat.shiftLeft_eq]
  omega

theorem opField_encode (i : Instr) : opField (encode i) = opcode i := by
  have := opcode_lt i
  rw [opField_eq, encode_toNat]; omega

theorem rsvField_encode (i : Instr) : rsvField (encode i) = 0 := by
  have := opcode_lt i
  rw [rsvField_eq, encode_toNat]; omega

theorem blkField_encode (i : Instr) : blkField (encode i) = blkOperand i % 65536 := by
  have := opcode_lt i
  rw [blkField_eq, encode_toNat]; omega

/-- A word is its three fields (R90). -/
theorem word_eq_of_fields {v w : Word} (hop : opField v = opField w) (hrsv : rsvField v = rsvField w)
    (hblk : blkField v = blkField w) : v = w := by
  rw [opField_eq, opField_eq] at hop
  rw [rsvField_eq, rsvField_eq] at hrsv
  rw [blkField_eq, blkField_eq] at hblk
  have := v.isLt
  have := w.isLt
  apply BitVec.eq_of_toNat_eq
  omega

/-- The fields of a word that spells a command. -/
theorem fields_of_decode {w : Word} {i : Instr} (h : decode w = .cmd i) :
    rsvField w = 0 ∧ opField w = opcode i ∧ blkField w = blkOperand i := by
  simp only [decode, plainCommand] at h
  repeat' split at h
  all_goals first | (cases h; simp_all [opcode, blkOperand]) | cases h

end Sys2Proof
end

