-- ==== Sys2Proof/Laws/PerInstr.lean ====
section
/-! SUPPORT. The laws said once for each command. MatchesRow: the word of a command is in its row of the match and mask
table (30_encoding.md R94), with the numbers of the table written out. -/

namespace Sys2Proof.Laws.MatchesRow

/-- The match of each command's row, R94. -/
def rowMatch : Instr → Word
  | .nop => 0x00000000#32
  | .digest => 0x00000001#32
  | .pad => 0x00000002#32
  | .init => 0x00000003#32
  | .compress _ => 0x00000004#32
  | .final => 0x00000005#32

/-- The mask of each command's row, R94. -/
def rowMask : Instr → Word
  | .nop => 0xFFFFFFFF#32
  | .digest => 0xFFFFFFFF#32
  | .pad => 0xFFFFFFFF#32
  | .init => 0xFFFFFFFF#32
  | .compress _ => 0x0000FFFF#32
  | .final => 0xFFFFFFFF#32

/-- The encoded word, masked, is the match of its row. -/
def Statement (i : Instr) : Prop := encode i &&& rowMask i = rowMatch i

theorem nop : Statement .nop := by rw [Statement]; decide +kernel

theorem digest : Statement .digest := by rw [Statement]; decide +kernel

theorem pad : Statement .pad := by rw [Statement]; decide +kernel

theorem init : Statement .init := by rw [Statement]; decide +kernel

theorem compress (blk : Nat) : Statement (.compress blk) := by
  have h : (encode (.compress blk) &&& 0x0000FFFF#32).toNat = (encode (.compress blk)).toNat % 65536 := by
    rw [BitVec.toNat_and]
    exact Nat.and_two_pow_sub_one_eq_mod _ 16
  apply BitVec.eq_of_toNat_eq
  simp only [rowMask, rowMatch]
  rw [h, encode_toNat]
  simp only [opcode, blkOperand, BitVec.toNat_ofNat]
  omega

theorem final : Statement .final := by rw [Statement]; decide +kernel

end Sys2Proof.Laws.MatchesRow
end

