-- ==== Sys2Proof/Laws/Reading.lean ====
section
/-! SUPPORT. What a read of the message buffer returns, said with `byteSeen` and `unwritten` of Safety.lean: the bytes, words
and blocks of R62, R64 and R178, with one draw for each byte not written since reset (R78); and the padding byte by byte, in
the manual's own cases (R134). -/

namespace Sys2Proof.Machine

/-! ### Counting the bytes not written -/

theorem unwritten_self (m : Memory) (a : Nat) : unwritten m a a = 0 := by simp [unwritten]

theorem unwritten_succ (m : Memory) {a b : Nat} (h : a ≤ b) :
    unwritten m a (b + 1) = unwritten m a b + if (m.read? b).isNone then 1 else 0 := by
  unfold unwritten
  rw [show b + 1 - a = (b - a) + 1 by omega, List.range'_concat, List.countP_append]
  simp [show a + (b - a) = b by omega]

theorem unwritten_split (m : Memory) {a b c : Nat} (h1 : a ≤ b) (h2 : b ≤ c) :
    unwritten m a c = unwritten m a b + unwritten m b c := by
  induction c with
  | zero =>
    have : b = 0 := by omega
    subst this
    simp [unwritten]
  | succ c ih =>
    by_cases hb : b = c + 1
    · subst hb; rw [unwritten_self]; rfl
    · rw [unwritten_succ m (by omega), unwritten_succ m (by omega), ih (by omega)]; omega

/-! ### Bytes, words, blocks -/

theorem readByte_eq (m : Memory) (n : Nat) {a x : Nat} (h : a ≤ x) :
    m.readByte (n + unwritten m a x) x = (byteSeen m n a x, n + unwritten m a (x + 1)) := by
  rw [unwritten_succ m h]
  cases hx : m.read? x with
  | none => simp [Memory.readByte, byteSeen, hx, Nat.add_assoc]
  | some b => simp [Memory.readByte, byteSeen, hx]

theorem readBytes_eq (m : Memory) (n : Nat) {a x : Nat} (k : Nat) (h : a ≤ x) :
    m.readBytes (n + unwritten m a x) x k =
      ((List.range' x k).map (byteSeen m n a), n + unwritten m a (x + k)) := by
  induction k generalizing x with
  | zero => rfl
  | succ k ih =>
    simp only [Memory.readBytes, readByte_eq m n h, ih (x := x + 1) (by omega), List.range'_succ, List.map_cons]
    rw [show x + 1 + k = x + (k + 1) by omega]

/-- Four bytes, least significant first, are the word with the last one on the left (R64). -/
theorem leWord_four (p q r s : Byte) : leWord [p, q, r, s] = s ++ r ++ q ++ p := by
  apply BitVec.eq_of_toNat_eq
  have h : ∀ {n : Nat} (x : BitVec n) (y : Byte), (x ++ y).toNat = x.toNat * 256 + y.toNat := by
    intro n x y
    rw [BitVec.toNat_append, ← Nat.shiftLeft_add_eq_or_of_lt y.isLt, Nat.shiftLeft_eq]
  have := p.isLt
  have := q.isLt
  have := r.isLt
  have := s.isLt
  simp only [leWord, leNat, BitVec.toNat_ofNat, h]
  omega

theorem readWord_eq (m : Memory) (n : Nat) {a x : Nat} (h : a ≤ x) :
    m.readWord (n + unwritten m a x) x = (wordAt (byteSeen m n a) x, n + unwritten m a (x + 4)) := by
  simp only [Memory.readWord, readBytes_eq m n 4 h]
  simp only [List.range', List.map_cons, List.map_nil, leWord_four, wordAt]

theorem readWords_eq (m : Memory) (n : Nat) {a x : Nat} (k : Nat) (h : a ≤ x) :
    m.readWords (n + unwritten m a x) x k =
      ((List.range k).map (fun j => wordAt (byteSeen m n a) (x + 4 * j)), n + unwritten m a (x + 4 * k)) := by
  induction k generalizing x with
  | zero => rfl
  | succ k ih =>
    simp only [Memory.readWords, readWord_eq m n h, ih (x := x + 4) (by omega), List.range_succ_eq_map, List.map_cons,
      List.map_map]
    rw [show x + 4 + 4 * k = x + 4 * (k + 1) by omega]
    have : ((fun j => wordAt (byteSeen m n a) (x + 4 * j)) ∘ Nat.succ) =
        fun j => wordAt (byteSeen m n a) (x + 4 + 4 * j) := by
      funext j
      simp only [Function.comp]
      congr 1
      omega
    rw [this]
    rfl

/-- A block slot read in the course of a read that began at `a` (R178). -/
theorem readBlock_eq (m : Memory) (n : Nat) {a slot : Nat} (h : a ≤ 64 * slot) :
    m.readBlock (n + unwritten m a (64 * slot)) slot =
      (blockAt (byteSeen m n a) (64 * slot), n + unwritten m a (64 * slot + 64)) := by
  rw [Memory.readBlock]
  exact readWords_eq m n 16 h

/-- A block slot read alone (R178). -/
theorem readBlock_alone (m : Memory) (n slot : Nat) :
    m.readBlock n slot =
      (blockAt (byteSeen m n (64 * slot)) (64 * slot), n + unwritten m (64 * slot) (64 * slot + 64)) := by
  have := readBlock_eq m n (Nat.le_refl (64 * slot))
  rwa [unwritten_self] at this

/-- A block is made of its 64 bytes. -/
theorem blockAt_congr {f g : Nat → Byte} {a : Nat} (h : ∀ x, a ≤ x → x < a + 64 → f x = g x) :
    blockAt f a = blockAt g a := by
  apply List.map_congr_left
  intro j hj
  simp only [List.mem_range] at hj
  simp only [wordAt, h (a + 4 * j) (by omega) (by omega), h (a + 4 * j + 1) (by omega) (by omega),
    h (a + 4 * j + 2) (by omega) (by omega), h (a + 4 * j + 3) (by omega) (by omega)]

/-! ### The padding -/

/-- Byte j of the length field, as bits of the bit-length (R134, R135). -/
theorem byte_of_bitLength (l j : Nat) :
    BitVec.ofNat 8 (bitLength l / 256 ^ j) = (BitVec.ofNat 64 (8 * l)).extractLsb' (8 * j) 8 := by
  apply BitVec.eq_of_toNat_eq
  simp [bitLength, Nat.shiftRight_eq_div_pow, Nat.pow_mul, Nat.mul_comm l 8]

/-- The buffer after the padding of a message of `l` bytes (R134, R136). -/
theorem read?_padMessage_cases (m : Memory) (l x : Nat) :
    (m.padMessage l).read? x =
      if x < l ∨ 64 * chunkCount l ≤ x then m.read? x
      else if x = l then some 0x80#8
      else if x < 64 * chunkCount l - 8 then some 0x00#8
      else some ((BitVec.ofNat 64 (8 * l)).extractLsb' (8 * (x - (64 * chunkCount l - 8))) 8) := by
  have hcap : l + 9 ≤ capOf l := by simp only [capOf, chunkCount, ceilDiv]; omega
  rw [Memory.read?_padMessage, byte_of_bitLength, show 64 * chunkCount l = capOf l from rfl]
  split_ifs <;> first | rfl | omega

end Sys2Proof.Machine
end

