-- ==== Sys2Proof/Laws/Rounds.lean ====
section
/-! SUPPORT. The rounds: `rotl32` of R12 is the rotation of a 32-bit word for every amount the s table holds (R171, R181),
and what one more round does to the working registers (R175). -/

namespace Sys2Proof.Machine

theorem sAmount_range : ∀ i < 64, 1 ≤ sAmount i ∧ sAmount i ≤ 31 := by decide

/-- R181: `rotl32` is a rotation, no bit is lost. -/
theorem rotl32_eq_rotateLeft (x : Word) {i : Nat} (h : i < 64) : rotl32 x (sAmount i) = x.rotateLeft (sAmount i) := by
  have := sAmount_range i h
  simp [rotl32, BitVec.rotateLeft, BitVec.rotateLeftAux, Nat.mod_eq_of_lt (show sAmount i < 32 by omega)]

theorem roundsDone_zero (m : List Word) (q : Quad) : roundsDone m q 0 = q := rfl

/-- Round n as a rotation (R175). -/
theorem roundsDone_succ (m : List Word) (q : Quad) {n : Nat} (h : n < 64) :
    roundsDone m q (n + 1) =
      { a := (roundsDone m q n).d,
        b := (roundsDone m q n).b + (roundSum n (roundsDone m q n) m).rotateLeft (sAmount n),
        c := (roundsDone m q n).b,
        d := (roundsDone m q n).c } := by
  rw [roundsDone, roundStep, rotl32_eq_rotateLeft _ h]

end Sys2Proof.Machine
end

