-- ==== Sys2Proof/Tests/Slice0.lean ====
section
/-! SUPPORT. The model's own tests. The expected values are the manual's: the encodings of 30_encoding.md R94, the padding
table of 41_padding.md R137, and the vectors of 95_test_vectors.md, named at each test. Each test is about one step. The
theorems named `witness_…` show, for each statement of Obligations.lean with hypotheses, states and operands that meet all of
them together. -/

namespace Sys2Proof.Tests

open Sys2Proof.Machine

-- One theorem after the other: elaborated side by side, the kernel evaluations below each keep a thread of their own, and
-- all of them together reserve more memory than the check allows.
set_option Elab.async false

/-! ### Small states -/

/-- What a step that answers a next state says of it. -/
def after {α : Type} (f : State → α) : Host.Outcome State Fault Refusal → Option α
  | .next t => some (f t)
  | .fault _ => none
  | .refused _ => none

/-- After reset, with the host about to make one transaction. -/
def host (l : Line) : State := { State.reset with script := [l], turns := [.host] }

/-- After reset, with a command running; with no turn listed the engine moves next. -/
def running (i : Instr) : State := { State.reset with busy := true, pend := some i }

/-- A command running, and the host about to make one transaction. -/
def hostWhile (i : Instr) (l : Line) : State := { running i with script := [l], turns := [.host] }

/-- Bytes from buffer address 0 on. -/
def bytesAt (bs : List Byte) : Memory := Memory.writeBytes [] 0 bs

/-- "abc" in the buffer, LEN = 3 (KAT2). -/
def abc (s : State) : State := { s with buf := bytesAt [0x61#8, 0x62#8, 0x63#8], len := 3#32 }

/-- The STATUS word after a step. -/
def statusAfter (s : State) : Option Word := after statusWord (step s)

/-- The last response after a step. -/
def responseAfter (s : State) : Option Response := (after (fun t => t.responses.getLast?) (step s)).getD none

/-- The invariant, from its parts on a concrete state. -/
theorem inv_of {s : State} (h1 : s.buf.wf = true) (h2 : s.buf.all (fun c => decide (c.1 < s.cfg.bufBytes)) = true)
    (h3 : s.busy = s.pend.isSome) (h4 : s.busy = true → s.done = false) (h5 : s.busy = true → s.err = .none)
    (h6 : s.pend.all (fun i => decide (i ≠ .nop ∧ rangeCheck i s = .none)) = true) : s.Inv := by
  refine ⟨h1, ?_, h3, h4, h5, ?_⟩
  · intro c hc
    simpa using List.all_eq_true.mp h2 c hc
  · intro i hi
    rw [hi] at h6
    simpa using h6

/-! ### WellFormed: the one check, refused and passed at its boundary (R90, R92) -/

theorem test_wellFormed_refuses_wide_blk : (Instr.compress 65536).wellFormed = false := by decide

theorem test_wellFormed_accepts_last_blk : (Instr.compress 65535).wellFormed = true := by decide

/-! ### Decoding: words written out from R94, bit 31 on the left -/

theorem test_decode_nop : decode 0b00000000000000000000000000000000#32 = .cmd .nop := by decide +kernel

theorem test_decode_digest : decode 0b00000000000000000000000000000001#32 = .cmd .digest := by decide +kernel

theorem test_decode_pad : decode 0b00000000000000000000000000000010#32 = .cmd .pad := by decide +kernel

theorem test_decode_init : decode 0b00000000000000000000000000000011#32 = .cmd .init := by decide +kernel

theorem test_decode_compress : decode 0b10000000000000010000000000000100#32 = .cmd (.compress 32769) := by decide +kernel

theorem test_decode_final : decode 0b00000000000000000000000000000101#32 = .cmd .final := by decide +kernel

/-- The words of sections 4.4 and 5: reserved OP, RSV not 0, BLK not 0 outside COMPRESS, RSV before BLK. -/
theorem test_decode_reserved :
    [0x00000006#32, 0x00000007#32, 0x000000FF#32, 0x00000100#32, 0x00010003#32, 0x00400104#32].map decode =
      [.badcmd .reservedOpcode, .badcmd .reservedOpcode, .badcmd .reservedOpcode, .badcmd .reservedField,
        .badcmd .blockField, .badcmd .reservedField] := by decide +kernel

/-- R99: the words of the command pseudo-instructions. -/
theorem test_encode : [Instr.nop, .digest, .pad, .init, .compress 1, .final].map encode =
    [0x00000000#32, 0x00000001#32, 0x00000002#32, 0x00000003#32, 0x00010004#32, 0x00000005#32] := by decide +kernel

theorem test_decodeTableWord : decodeTableWord 32 0x003F0004 = some (.compress 63) ∧ decodeTableWord 32 0x100 = none := by
  decide +kernel

/-- The very next step runs the word placed by withFetchWord. -/
theorem test_withFetchWord : after (fun t => (t.pend, t.busy)) (step (State.reset.withFetchWord 32 0x003F0004)) =
    some (some (.compress 63), true) := by decide +kernel

/-! ### Primitives: sections 2.1, 2.2 and 2.3, and the boundaries of section 1.2 -/

theorem test_rotl32 : [rotl32 0x80000001#32 7, rotl32 0x12345678#32 4, rotl32 0xDEADBEEF#32 23, rotl32 0xD76AA4F7#32 7] =
    [0x000000C0#32, 0x23456781#32, 0x77EF56DF#32, 0xB5527BEB#32] := by decide +kernel

theorem test_roundF : [0, 16, 32, 48].map (fun i => roundF i 0xF0F0F0F0#32 0xCCCCCCCC#32 0xAAAAAAAA#32) =
    [0xCACACACA#32, 0xE4E4E4E4#32, 0x96969696#32, 0x39393939#32] := by decide +kernel

theorem test_msgIndex : [0, 15, 16, 17, 31, 32, 33, 47, 48, 49, 63].map msgIndex = [0, 15, 1, 6, 12, 5, 8, 2, 0, 7, 9] := by
  decide

theorem test_chunkCount : [0, 54, 55, 56, 63, 64, 119, 120, 183, 184, 4087, 4088, 100000, 0xFFFFFFFF].map chunkCount =
    [1, 1, 1, 2, 2, 2, 2, 3, 3, 4, 64, 65, 1563, 67108865] := by decide

/-- Section 3.1: the working registers of the empty message after round 0 and after round 15. -/
theorem test_rounds : (roundsDone (0x00000080#32 :: List.replicate 15 0#32) iv 1,
      roundsDone (0x00000080#32 :: List.replicate 15 0#32) iv 16) =
    (⟨0x10325476#32, 0xA5202774#32, 0xEFCDAB89#32, 0x98BADCFE#32⟩,
      ⟨0xF56C7CF1#32, 0xD6819C6A#32, 0x5AA53F75#32, 0x374943A7#32⟩) := by decide +kernel

/-! ### The commands: sections 4.1 to 4.5 -/

/-- STATUS 0x12 then NOP gives 0x02 (section 4.1, R118). -/
theorem test_nop_clears_err :
    statusAfter { host (.command .nop) with err := .badcmd, done := true } = some 0x02#32 := by decide +kernel

/-- NOP while busy gives STATUS 0x05 (section 4.1). -/
theorem test_nop_dropped : statusAfter (hostWhile .init (.command .nop)) = some 0x05#32 := by decide +kernel

/-- The slot words of LEN = 3 after PAD (section 4.2). -/
theorem test_pad_abc : after (fun t => (t.buf.readBlock 0 0).1) (exec .pad (abc (running .pad))) =
    some (0x80636261#32 :: List.replicate 13 0#32 ++ [0x00000018#32, 0#32]) := by decide +kernel

/-- LEN = 63: the marker ends the slot, the second slot is zeros and the length 0x1F8 (R137, section 4.2). -/
theorem test_pad_63 :
    after (fun t => ([t.buf.read? 62, t.buf.read? 63], (t.buf.readBlock 0 1).1)) (exec .pad { running .pad with len := 63#32 }) =
      some ([none, some 0x80#8], List.replicate 14 0#32 ++ [0x000001F8#32, 0#32]) := by decide +kernel

/-- ACC = (0, 0, 0, 0); INIT; the IV (R151). -/
theorem test_init : after (fun t => (t.acc, t.dig)) (exec .init { running .init with acc := ⟨0#32, 0#32, 0#32, 0#32⟩ }) =
    some (⟨0x67452301#32, 0xEFCDAB89#32, 0x98BADCFE#32, 0x10325476#32⟩, ⟨0#32, 0#32, 0#32, 0#32⟩) := by decide +kernel

/-- KAT1 compressed once and, from its result, again (section 4.4): COMPRESS starts from ACC. -/
theorem test_compress_twice :
    compressBlock iv (0x00000080#32 :: List.replicate 15 0#32) =
        ⟨0xD98C1DD4#32, 0x04B2008F#32, 0x980980E9#32, 0x7E42F8EC#32⟩ ∧
      compressBlock ⟨0xD98C1DD4#32, 0x04B2008F#32, 0x980980E9#32, 0x7E42F8EC#32⟩ (0x00000080#32 :: List.replicate 15 0#32) =
        ⟨0xCE49D1CD#32, 0x68F7D2B5#32, 0x0F48242B#32, 0xA04C6DF2#32⟩ := by decide +kernel

/-- Words of a slot other than 0, all bytes 0xFF, ACC all ones (section 4.4). -/
theorem test_compress_ones :
    after State.acc (exec (.compress 1) { running (.compress 1) with
        buf := Memory.writeBytes [] 64 (List.replicate 64 0xFF#8),
        acc := ⟨0xFFFFFFFF#32, 0xFFFFFFFF#32, 0xFFFFFFFF#32, 0xFFFFFFFF#32⟩ }) =
      some ⟨0x6CBA9129#32, 0x29FFD12A#32, 0x8B9BB7D3#32, 0xA9A0A3C1#32⟩ := by decide +kernel

/-- FINAL right after reset gives DIG = IV (R154, section 4.3). -/
theorem test_final : after (fun t => (t.acc, t.dig)) (exec .final (running .final)) = some (iv, iv) := by decide +kernel

/-- KAT2, with STATUS 0x02 at the end (section 4.5). -/
theorem test_digest_abc : after (fun t => (t.dig, statusWord t)) (exec .digest (abc (running .digest))) =
    some (⟨0x98500190#32, 0xB04FD23C#32, 0x7D3F96D6#32, 0x727FE128#32⟩, 0x02#32) := by decide +kernel

/-- A two-block message, 'a' x 56 (section 4.5). -/
theorem test_digest_two_blocks :
    after State.dig (exec .digest { running .digest with buf := bytesAt (List.replicate 56 0x61#8), len := 56#32 }) =
      some ⟨0xC78A0C3B#32, 0xB028F803#32, 0x70196C4C#32, 0x1872D106#32⟩ := by decide +kernel

/-- The digest bytes of KAT1 (R154). -/
theorem test_digestBytes : digestBytes ⟨0xD98C1DD4#32, 0x04B2008F#32, 0x980980E9#32, 0x7E42F8EC#32⟩ =
    [0xd4#8, 0x1d#8, 0x8c#8, 0xd9#8, 0x8f#8, 0x00#8, 0xb2#8, 0x04#8,
      0xe9#8, 0x80#8, 0x09#8, 0x98#8, 0xec#8, 0xf8#8, 0x42#8, 0x7e#8] := by decide +kernel

/-! ### Registers and bus: sections 4.6 and 5, program P4 -/

/-- Constants and derived registers, read as written in section 4.6. -/
theorem test_reads :
    [0x000, 0x004, 0x014, 0x018, 0x100, 0x104, 0x1FC, 0x200, 0x204, 0x240, 0x2FC, 0x020, 0x030].map
        (fun off => responseAfter (host (.rd off))) =
      [0x4D443501#32, 0#32, 1#32, 0x1000#32, 0xD76AA478#32, 0xE8C7B756#32, 0xEB86D391#32, 0x07#32, 0x0C#32, 0x05#32,
        0x15#32, 0x67452301#32, 0#32].map fun d => some (.read d .ok) := by decide +kernel

/-- Reserved, unmapped, misaligned and sub-word accesses are bus errors (section 4.6). -/
theorem test_bus_errors :
    [Line.rd 0x01C, .rd 0x2000, .read 0x006 4, .wr 0x000 5#32, .wr 0x014 5#32, .write 0x004 1 1#32].map
        (fun l => responseAfter (host l)) =
      [some (.read 0#32 .err), some (.read 0#32 .err), some (.read 0#32 .err), some (.write .err), some (.write .err),
        some (.write .err)] := by decide +kernel

/-- STATUS 0x16 written with all ones gives 0x10 (section 4.6). -/
theorem test_status_w1c :
    statusAfter { host (.wr 0x008 0xFFFFFFFF#32) with err := .badcmd, ovr := true, done := true } = some 0x10#32 := by
  decide +kernel

/-- CTRL written with all ones reads 1 (section 4.6). -/
theorem test_ctrl : after ctrlWord (step (host (.wr 0x00C 0xFFFFFFFF#32))) = some 1#32 := by decide +kernel

/-- 0x00636261 written to the BUF window: bytes 61 62 63 00 (section 4.6, P1). -/
theorem test_buf_window : after State.buf (step (host (.wrBuf 0 0x00636261#32))) =
    some [(0, 0x61#8), (1, 0x62#8), (2, 0x63#8), (3, 0x00#8)] := by decide +kernel

/-- A LEN write while busy is dropped, OVR = 1 (section 4.6). -/
theorem test_len_while_busy : after (fun t => (t.len, t.ovr)) (step (hostWhile .init (.setLen 7#32))) = some (0#32, true) := by
  decide +kernel

/-- The rejections of section 5 and P4: STATUS 0x12, 0x22, 0x32. -/
theorem test_rejections :
    [statusAfter (host (.wr 0x004 0x00000006#32)), statusAfter { host (.command .pad) with len := 4088#32 },
      statusAfter { host (.command .digest) with len := 100000#32 }, statusAfter (host (.command (.compress 64)))] =
      [some 0x12#32, some 0x22#32, some 0x22#32, some 0x32#32] := by decide +kernel

/-- P4, outcome (a): the ACC_A write comes before the completion of INIT and is dropped. -/
theorem test_race_dropped : after (fun t => (t.acc, t.ovr)) (step (hostWhile .init (.wr 0x020 0#32))) = some (iv, true) := by
  decide +kernel

/-- P4, outcome (b): after the completion the write is applied. -/
theorem test_race_applied : after (fun t => (t.acc, statusWord t)) (step { host (.wr 0x020 0#32) with done := true }) =
    some (⟨0#32, 0xEFCDAB89#32, 0x98BADCFE#32, 0x10325476#32⟩, 0x02#32) := by decide +kernel

/-- A read of four bytes never written makes four draws (section 4.6, R78). -/
theorem test_draws : after State.draws (step (host (.rdBuf 4))) = some 4 := by decide +kernel

/-! ### Witnesses: the encoding and the step -/

theorem witness_DecodeOfEncode : (Instr.compress 0).wellFormed = true ∧ (Instr.compress 65535).wellFormed = true := by decide

theorem witness_EncodeOfDecode : decode 0xFFFF0004#32 = .cmd (.compress 65535) ∧ decode 0x00000004#32 = .cmd (.compress 0) := by
  decide +kernel

theorem witness_StepRunsDecodedCommand :
    ((host (.write 0x004 4 0x00000005#32)).hostMakes (.write 0x004 4 0x00000005#32) ∧ decode 0x00000005#32 = .cmd .final) ∧
    ((running .pad).mover = .engine ∧ (running .pad).pend = some .pad) ∧
    decodeTableWord 32 0xFFFF0004 = some (.compress 65535) := by decide +kernel

theorem witness_CommandDroppedWhileBusy :
    (hostWhile .init (.write 0x004 4 0x00000007#32)).hostMakes (.write 0x004 4 0x00000007#32) ∧
    (hostWhile .init (.write 0x004 4 0x00000007#32)).busy = true := by decide +kernel

/-- BADCMD; LEN one byte too long; the first slot that does not exist. -/
theorem witness_RejectionIsPrecise :
    ((host (.write 0x004 4 0x00000006#32)).hostMakes (.write 0x004 4 0x00000006#32) ∧
      decode 0x00000006#32 = .badcmd .reservedOpcode) ∧
    (State.hostMakes { host (.write 0x004 4 0x00000002#32) with len := 4088#32 } (.write 0x004 4 0x00000002#32) ∧
      decode 0x00000002#32 = .cmd .pad ∧ 64 * chunkCount (4088#32).toNat > Config.reference.bufBytes) ∧
    ((host (.write 0x004 4 0x00400004#32)).hostMakes (.write 0x004 4 0x00400004#32) ∧
      decode 0x00400004#32 = .cmd (.compress 64) ∧ 64 * (64 + 1) > Config.reference.bufBytes) := by decide +kernel

theorem witness_ReservedFieldRejected :
    ((host (.write 0x004 4 0x00000100#32)).hostMakes (.write 0x004 4 0x00000100#32) ∧
      (0x00000100#32 : Word).extractLsb' 8 8 ≠ 0#8) ∧
    ((host (.write 0x004 4 0x00010003#32)).hostMakes (.write 0x004 4 0x00010003#32) ∧
      (0x00010003#32 : Word).extractLsb' 16 16 ≠ 0#16 ∧ (0x00010003#32 : Word).extractLsb' 0 8 ≠ 0x04#8) := by decide +kernel

theorem witness_ReservedOpcodeRejected :
    ((host (.write 0x004 4 0x00000006#32)).hostMakes (.write 0x004 4 0x00000006#32) ∧
      0x06 ≤ ((0x00000006#32 : Word).extractLsb' 0 8).toNat) ∧
    ((host (.write 0x004 4 0x000000FF#32)).hostMakes (.write 0x004 4 0x000000FF#32) ∧
      0x06 ≤ ((0x000000FF#32 : Word).extractLsb' 0 8).toNat) := by decide +kernel

/-- The longest message, the last slot, and a command without a check. -/
theorem witness_AcceptanceStartsTheCommand :
    (({ State.reset with len := 4087#32 } : State).mover = .host ∧ State.reset.busy = false ∧
      64 * chunkCount (4087#32).toNat ≤ Config.reference.bufBytes) ∧
    (State.reset.mover = .host ∧ 64 * (63 + 1) ≤ Config.reference.bufBytes) ∧
    (State.reset.mover = .host ∧ Instr.final ≠ .nop) := by decide +kernel

theorem witness_NopCompletesInItsWrite :
    ((host (.command .nop)).mover = .host ∧ (host (.command .nop)).busy = false) ∧
    ((hostWhile .pad (.command .nop)).mover = .host ∧ (hostWhile .pad (.command .nop)).busy = true) ∧
    ((0x00000100#32 : Word).extractLsb' 0 8 = 0x00#8 ∧ 0x00000100#32 ≠ 0x00000000#32) := by decide +kernel

theorem witness_nop_answers : ∃ t, exec .nop (host (.command .nop)) = .next t := ⟨_, exec_eq _ _⟩

theorem witness_LengthCheckRejects :
    State.mover { State.reset with len := 4088#32 } = .host ∧ State.reset.busy = false ∧
    64 * chunkCount (4088#32).toNat > Config.reference.bufBytes := by decide +kernel

theorem witness_SlotCheckRejects :
    State.reset.mover = .host ∧ State.reset.busy = false ∧ 64 * (64 + 1) > Config.reference.bufBytes ∧
    Config.reference.bufBytes = 4096 := by decide +kernel

/-! ### Witnesses: the effects -/

/-- The engine's turn, with each command running: the hypotheses of PadWritesThePadding, InitLoadsTheIv,
FinalCopiesAccToDig, CompressAccumulatesOneBlock, DigestComputesMd5, DigestBufferAfterwards and DigestLeftInAcc. -/
theorem witness_completions : ∀ i ∈ [Instr.pad, .init, .final, .compress 0, .compress 63, .digest],
    (running i).mover = .engine ∧ (running i).pend = some i := by decide +kernel

theorem witness_completion_answers (i : Instr) : ∃ t, exec i (running i) = .next t := ⟨_, exec_eq _ _⟩

theorem witness_PadTwice : (running .pad).Inv ∧ (running .pad).mover = .engine ∧ (running .pad).pend = some .pad ∧
    ∃ t, exec .pad (running .pad) = .next t ∧
      ∃ u, exec .pad { t with len := 3#32, pend := some .pad, busy := true, done := false, turns := [.engine] } = .next u :=
  ⟨inv_of rfl rfl rfl (by decide) (by decide) (by decide), rfl, rfl, _, exec_eq _ _, _, exec_eq _ _⟩

theorem witness_CompressBlockIsSixtyFourRounds :
    roundsDone [] iv 0 = iv ∧ ∀ i < 64,
      (roundsDone [] iv (i + 1)).a = (roundsDone [] iv i).d ∧ (roundsDone [] iv (i + 1)).c = (roundsDone [] iv i).b ∧
      (roundsDone [] iv (i + 1)).d = (roundsDone [] iv i).c ∧
      (roundsDone [] iv (i + 1)).b = (roundsDone [] iv i).b +
        (roundF i (roundsDone [] iv i).b (roundsDone [] iv i).c (roundsDone [] iv i).d + (roundsDone [] iv i).a + kConst i +
          ([] : List Word).getD (msgIndex i) 0#32).rotateLeft (sAmount i) := by
  refine ⟨rfl, fun i hi => ?_⟩
  rw [roundsDone_succ [] iv hi]
  exact ⟨rfl, rfl, rfl, rfl⟩

/-- Two engines that hold the same message and differ in BUF_BYTES, ACC and a byte beyond LEN. -/
theorem witness_DigestDependsOnMessageOnly :
    let s := abc (running .digest)
    let s' : State := { abc (running .digest) with
      buf := bytesAt [0x61#8, 0x62#8, 0x63#8, 0xFF#8], cfg := ⟨0, 0⟩, acc := ⟨0#32, 0#32, 0#32, 0#32⟩ }
    s.mover = .engine ∧ s.pend = some .digest ∧ s'.mover = .engine ∧ s'.pend = some .digest ∧ s.len = s'.len ∧
    (∀ x < s.len.toNat, s.buf.read? x ≠ none ∧ s.buf.read? x = s'.buf.read? x) := by decide +kernel

/-- The longest message of the smallest buffer, every byte of it written. -/
theorem witness_DigestEqualsItsSequence :
    let s : State := { State.reset with cfg := ⟨0, 0⟩, buf := bytesAt (List.replicate 55 0x61#8), len := 55#32 }
    s.Inv ∧ s.busy = false ∧ 64 * chunkCount s.len.toNat ≤ s.cfg.bufBytes ∧ (∀ x < s.len.toNat, s.buf.read? x ≠ none) :=
  ⟨inv_of (by decide +kernel) (by decide +kernel) rfl (by decide) (by decide) (by decide), rfl, by decide +kernel,
    by decide +kernel⟩

theorem witness_DigestLeftInAcc : ∃ t, exec .digest (running .digest) = .next t ∧
    ∃ u, exec (.compress 0)
      { t with pend := some (.compress 0), busy := true, done := false, turns := [.engine] } = .next u :=
  ⟨_, exec_eq _ _, _, exec_eq _ _⟩

/-- Slot 0 of one engine and slot 63 of another, with the same 64 bytes. -/
theorem witness_CompressDependsOnAccAndSlotOnly :
    let s : State := { running (.compress 0) with buf := bytesAt (List.replicate 64 0x61#8) }
    let s' : State := { running (.compress 63) with buf := Memory.writeBytes [] (64 * 63) (List.replicate 64 0x61#8) }
    s.mover = .engine ∧ s.pend = some (.compress 0) ∧ s'.mover = .engine ∧ s'.pend = some (.compress 63) ∧ s.acc = s'.acc ∧
    (∀ j < 64, s.buf.read? (64 * 0 + j) = some 0x61#8 ∧ s'.buf.read? (64 * 63 + j) = some 0x61#8) := by decide +kernel

/-! ### Witnesses: the registers, the window, the bus -/

/-- A transaction at every register and window a statement names, idle and while a command runs: StatusRegister,
ControlRegister, LengthRegister, AccumulatorRegisters, DigestRegisters, ConstantAndDerivedReads (first and last word of each
ROM), BufferWindowRead and BufferWindowWrite (first and last word). -/
theorem witness_transactions :
    ∀ off ∈ [0x000, 0x004, 0x008, 0x00C, 0x010, 0x014, 0x018, 0x020, 0x024, 0x028, 0x02C, 0x030, 0x034, 0x038, 0x03C,
        0x100, 0x1FC, 0x200, 0x2FC, 0x1000, 0x1FFC],
      ((host (.read off 4)).hostMakes (.read off 4) ∧ (hostWhile .pad (.read off 4)).hostMakes (.read off 4)) ∧
      ((host (.write off 4 6#32)).hostMakes (.write off 4 6#32) ∧
        (hostWhile .pad (.write off 4 6#32)).hostMakes (.write off 4 6#32)) ∧
      ((host (.read off 4)).busy = false ∧ (hostWhile .pad (.read off 4)).busy = true) := by decide +kernel

/-- The two ends of each ROM: K[0], K[63], s[0], s[63]. -/
theorem witness_ConstantAndDerivedReads :
    (0x1FC = 0x100 + 4 * 63 ∧ (0x2FC : Nat) = 0x200 + 4 * 63) ∧ kConst 0 = 0xD76AA478#32 ∧ kConst 63 = 0xEB86D391#32 ∧
    sAmount 0 = 7 ∧ sAmount 63 = 21 ∧ (1#32).toNat = chunkCount State.reset.len.toNat ∧
    (0x1000#32).toNat = State.reset.cfg.bufBytes := by decide +kernel

/-- The window of BufferWindowRead, BufferWindowWrite and HostWordIsMessageWord: first and last word. -/
theorem witness_BufferWindow :
    (0 + 4 ≤ Config.reference.bufBytes ∧ 0 % 4 = 0) ∧ (4092 + 4 ≤ Config.reference.bufBytes ∧ 4092 % 4 = 0) ∧
    (15 < 16 ∧ 64 * (63 + 1) ≤ Config.reference.bufBytes ∧ 64 * 63 + 4 * 15 = 4092) := by decide +kernel

theorem witness_HostWordIsMessageWord : ∃ t, step (host (.write (0x1000 + (64 * 63 + 4 * 15)) 4 6#32)) = .next t :=
  (step_stepTo _).imp fun _ h => h.1

/-- Each clause of badAccess at its ends, with the transaction; size and alignment also at CMD while busy. -/
theorem witness_BusErrorChangesNothing :
    (∀ off ∈ [0x01C, 0x040, 0x0FC, 0x300, 0xFFC, 0x2000, 0x006], badAccess 4096 off 4 false ∧
      (host (.read off 4)).hostMakes (.read off 4)) ∧
    (∀ off ∈ [0x000, 0x014, 0x018, 0x030, 0x03C, 0x100, 0x2FC], badAccess 4096 off 4 true ∧
      (host (.write off 4 6#32)).hostMakes (.write off 4 6#32)) ∧
    (badAccess 4096 0x004 1 true ∧ (hostWhile .pad (.write 0x004 1 6#32)).hostMakes (.write 0x004 1 6#32)) := by
  unfold badAccess
  decide +kernel

/-- The accesses next to the holes of the map are legal. -/
theorem witness_LegalAccessAnsweredOk :
    (∀ off ∈ [0x018, 0x020, 0x03C, 0x100, 0x2FC, 0x1000, 0x1FFC], ¬ badAccess 4096 off 4 false ∧
      (host (.read off 4)).hostMakes (.read off 4)) ∧
    (∀ off ∈ [0x004, 0x010, 0x020, 0x02C, 0x1000, 0x1FFC], ¬ badAccess 4096 off 4 true ∧
      (host (.write off 4 6#32)).hostMakes (.write off 4 6#32)) := by
  unfold badAccess
  decide +kernel

theorem witness_ReadsHaveNoSideEffect :
    ((host (.read 0x008 4)).hostMakes (.read 0x008 4) ∧ ∃ t, step (host (.read 0x008 4)) = .next t) ∧
    ((host .wait).hostMakes (.poll 0x008 1#32 0#32) ∧ ∃ t, step (host .wait) = .next t) :=
  ⟨⟨by decide +kernel, (step_stepTo _).imp fun _ h => h.1⟩, ⟨by decide +kernel, (step_stepTo _).imp fun _ h => h.1⟩⟩

/-! ### Witnesses: the whole machine -/

theorem witness_ResetInputResets : State.mover { running .digest with turns := [.reset] } = .reset := by decide +kernel

/-- The invariant at the start of a step: reset, a command running, and a host write while it runs. -/
theorem witness_StepKeepsInvariant :
    (State.reset.Inv ∧ ∃ t, step State.reset = .next t) ∧ ((running (.compress 63)).Inv ∧ ∃ t, step (running (.compress 63)) = .next t) ∧
    ((hostWhile .digest (.setLen 7#32)).Inv ∧ ∃ t, step (hostWhile .digest (.setLen 7#32)) = .next t) :=
  ⟨⟨inv_of rfl rfl rfl (by decide) (by decide) (by decide), (step_stepTo _).imp fun _ h => h.1⟩,
    ⟨inv_of rfl rfl rfl (by decide) (by decide) (by decide), (step_stepTo _).imp fun _ h => h.1⟩,
    ⟨inv_of rfl rfl rfl (by decide) (by decide) (by decide), (step_stepTo _).imp fun _ h => h.1⟩⟩

/-- BUSY rises in one step and falls in another. -/
theorem witness_BusyRisesAndFalls :
    (host (.command .init)).Inv ∧ (host (.command .init)).busy = false ∧ after State.busy (step (host (.command .init))) = some true ∧
    (running .init).Inv ∧ (running .init).busy = true ∧ after State.busy (step (running .init)) = some false :=
  ⟨inv_of rfl rfl rfl (by decide) (by decide) (by decide), by decide +kernel, by decide +kernel,
    inv_of rfl rfl rfl (by decide) (by decide) (by decide), by decide +kernel, by decide +kernel⟩

/-- DONE rises by a completion and falls by an acceptance. -/
theorem witness_DoneRisesAndFalls :
    (running .init).Inv ∧ (running .init).done = false ∧ after State.done (step (running .init)) = some true ∧
    State.Inv { host (.command .init) with done := true } ∧
    after State.done (step { host (.command .init) with done := true }) = some false :=
  ⟨inv_of rfl rfl rfl (by decide) (by decide) (by decide), by decide +kernel, by decide +kernel,
    inv_of rfl rfl rfl (by decide) (by decide) (by decide), by decide +kernel⟩

/-- OVR rises by a write of the last window word while busy and falls by its W1C. -/
theorem witness_OverrunRisesAndFalls :
    (hostWhile .init (.write 0x1FFC 4 6#32)).ovr = false ∧ after State.ovr (step (hostWhile .init (.write 0x1FFC 4 6#32))) = some true ∧
    after State.ovr (step { host .clrst with ovr := true }) = some false := by decide +kernel

/-- A command while idle leaves its code, and reset clears it. -/
theorem witness_ErrorCodeOfLastCommand :
    after State.err (step (host (.command (.compress 64)))) = some .blk ∧
    after State.err (step { State.reset with err := .len, turns := [.reset] }) = some .none := by decide +kernel

/-- Every register that WritersOfEachRegister names changes somewhere. -/
theorem witness_WritersOfEachRegister :
    after State.dig (step (running .final)) ≠ some State.reset.dig ∧
    after State.acc (step (host (.wr 0x020 0#32))) ≠ some State.reset.acc ∧
    after State.buf (step (running .pad)) ≠ some State.reset.buf ∧ after State.len (step (host (.setLen 7#32))) = some 7#32 ∧
    after State.ie (step (host (.wr 0x00C 1#32))) = some true ∧ (running .final).mover ≠ .reset := by decide +kernel

theorem witness_HostCannotDisturbCommand :
    (hostWhile .digest (.wrBuf 0 6#32)).busy = true ∧ (hostWhile .digest (.wrBuf 0 6#32)).mover = .host := by decide +kernel

/-- A message written into a fresh buffer, then DIGEST, with the host's turn twice before the engine's; the same with INIT,
which takes no byte; and COMPRESS of a slot that is written. -/
theorem witness_CompletionUnaffectedByHost :
    let s (i : Instr) (bs : List Byte) : State := { running i with
      buf := bytesAt bs, len := 3#32, script := [.wrBuf 0 6#32], turns := [.host, .host, .engine] }
    (∀ i bs, (s i bs).turns = List.replicate 2 .host ++ .engine :: []) ∧
    ((s .digest [0x61#8, 0x62#8, 0x63#8]).Inv ∧ (s .digest [0x61#8, 0x62#8, 0x63#8]).pend = some .digest ∧
      ∀ x, inputByte .digest (s .digest [0x61#8, 0x62#8, 0x63#8]) x →
        (s .digest [0x61#8, 0x62#8, 0x63#8]).buf.read? x ≠ none) ∧
    ((s .init []).Inv ∧ (s .init []).pend = some .init ∧
      ∀ x, inputByte .init (s .init []) x → (s .init []).buf.read? x ≠ none) ∧
    ((s (.compress 0) (List.replicate 64 0#8)).Inv ∧
      (s (.compress 0) (List.replicate 64 0#8)).pend = some (.compress 0) ∧
      ∀ x, inputByte (.compress 0) (s (.compress 0) (List.replicate 64 0#8)) x →
        (s (.compress 0) (List.replicate 64 0#8)).buf.read? x ≠ none) := by
  have digestBytes : ∀ x < 3, (bytesAt [0x61#8, 0x62#8, 0x63#8]).read? x ≠ none := by decide +kernel
  have slotBytes : ∀ x < 64, (bytesAt (List.replicate 64 0#8)).read? x ≠ none := by decide +kernel
  exact ⟨fun _ _ => rfl,
    ⟨inv_of (by decide +kernel) (by decide +kernel) rfl (by decide) (by decide) (by decide +kernel), rfl, digestBytes⟩,
    ⟨inv_of rfl rfl rfl (by decide) (by decide) (by decide), rfl, fun _ h => h.elim⟩,
    ⟨inv_of (by decide +kernel) (by decide +kernel) rfl (by decide) (by decide) (by decide +kernel), rfl,
      fun x h => slotBytes x (by have := h.2; omega)⟩⟩

theorem witness_RunningCommandEnds : (running .digest).Inv ∧ (running .digest).turns.length = 0 :=
  ⟨inv_of rfl rfl rfl (by decide) (by decide) (by decide), rfl⟩

/-- irq rises by a completion, and by enabling it while DONE is pending. -/
theorem witness_InterruptSources :
    (State.irq { running .init with ie := true } = false ∧ after State.irq (step { running .init with ie := true }) = some true) ∧
    (State.irq { host (.wr 0x00C 1#32) with done := true } = false ∧
      after State.irq (step { host (.wr 0x00C 1#32) with done := true }) = some true) := by decide +kernel

/-- The smallest and the largest buffer, each with the least width that reaches it (R10). -/
theorem witness_ApertureHoldsTheMap :
    0x1000 + 64 * 1 ≤ 2 ^ 13 ∧ (⟨0, 0⟩ : Config).bufBytes = 64 * 1 ∧ (⟨0, 0⟩ : Config).addrW = 13 ∧
    0x1000 + 64 * 65536 ≤ 2 ^ 23 ∧ (⟨65535, 0⟩ : Config).bufBytes = 64 * 65536 ∧ (⟨65535, 0⟩ : Config).addrW = 23 := by
  decide +kernel

/-- The last offset of a port of 13 bits, about to be read. -/
theorem witness_OffsetsStayOnPort :
    (host (.rd 0x1FFF)).onPort ∧ (host (.rd 0x1FFF)).hostMakes (.rd 0x1FFF) ∧ ∃ t, step (host (.rd 0x1FFF)) = .next t := by
  refine ⟨?_, by decide +kernel, (step_stepTo _).imp fun _ h => h.1⟩
  unfold State.onPort
  decide +kernel

end Sys2Proof.Tests
end

section
/-! PROOFS. The width of the bus offset against the aperture map (00_scope.md R10; 20_memory.md R60, R61). -/

namespace Sys2Proof.Machine

/-- One bit fewer than `ceilLog2 n` does not reach `n`: with `ceilLog2_le_iff`, the width is the least one. -/
theorem two_pow_pred_ceilLog2_lt {n : Nat} (h : 2 ≤ n) : 2 ^ (ceilLog2 n - 1) < n := by
  have hpred : ¬ ceilLog2 n ≤ ceilLog2 n - 1 := by
    unfold ceilLog2
    omega
  exact Nat.lt_of_not_le (mt (ceilLog2_le_iff h).mpr hpred)

/-- Every legal BUF_BYTES with every width that reaches its map is a configuration (R10): the last slot is NBLK - 1, and
the spare bits are those beyond the least width. -/
theorem exists_config {nblk w : Nat} (hpos : 1 ≤ nblk) (hmax : nblk ≤ 65536) (hmap : 0x1000 + 64 * nblk ≤ 2 ^ w) :
    ∃ c : Config, c.bufBytes = 64 * nblk ∧ c.addrW = w := by
  have hbuf : ∀ spare, Config.bufBytes ⟨⟨nblk - 1, by omega⟩, spare⟩ = 64 * nblk := fun _ => by
    simp only [Config.bufBytes, Nat.sub_add_cancel hpos]
  have hleast : ceilLog2 (0x1000 + 64 * nblk) ≤ w := (ceilLog2_le_iff (by omega)).mpr hmap
  refine ⟨⟨⟨nblk - 1, by omega⟩, w - ceilLog2 (0x1000 + 64 * nblk)⟩, hbuf _, ?_⟩
  rw [Config.addrW, hbuf, Nat.add_sub_cancel' hleast]

/-- Settles O56: the least width is `ceilLog2` of the map's size, and ADDR_W is that width and the spare bits. -/
theorem apertureHoldsTheMap : Obligations.ApertureHoldsTheMap := by
  unfold Obligations.ApertureHoldsTheMap
  refine ⟨fun c => ?_, by decide, by decide, fun _ _ => exists_config⟩
  have htwo : 2 ≤ 0x1000 + c.bufBytes := by omega
  exact ⟨ceilLog2 (0x1000 + c.bufBytes), (ceilLog2_le_iff htwo).mp le_rfl, two_pow_pred_ceilLog2_lt htwo,
    Nat.le_add_right _ _, map_le_aperture c⟩

end Sys2Proof.Machine
end

section
/-! PROOFS. What a step does to the engine's registers, said once for every register (10_state.md R20-R44): `EngineStep`
sorts the cases of `StepTo` by the register they write, and puts together all those that leave the engine as it is. -/

namespace Sys2Proof.Machine

/-! ### Which offsets select a target -/

/-- An aligned offset selects the target it stands at in the map (R61): the converse of `selectTarget_inv`. -/
theorem selectTarget_of_offsetSelects (c : Config) {off : Nat} {x : Target} (h4 : off % 4 = 0)
    (h : offsetSelects c.bufBytes off x) : selectTarget c off 4 = some x := by
  cases x with
  | krom i =>
    obtain ⟨hi, rfl⟩ := h
    rw [selectTarget_eq, if_pos ⟨rfl, h4⟩, regionAt, if_neg (by omega), if_pos (by omega), Nat.add_sub_cancel_left,
      Nat.mul_div_cancel_left _ (by decide)]
  | srom i =>
    obtain ⟨hi, rfl⟩ := h
    rw [selectTarget_eq, if_pos ⟨rfl, h4⟩, regionAt, if_neg (by omega), if_neg (by omega), if_pos (by omega),
      Nat.add_sub_cancel_left, Nat.mul_div_cancel_left _ (by decide)]
  | buf a =>
    obtain ⟨rfl, ha⟩ := h
    exact selectTarget_window ha (by omega)
  | acc k => cases k <;> (cases h; simp [selectTarget_low, registerAt])
  | digest k => cases k <;> (cases h; simp [selectTarget_low, registerAt])
  | _ => cases h; simp [selectTarget_low, registerAt]

/-- The targets whose write is dropped, with OVR set, while a command runs (R28). -/
def Target.droppedWhileBusy : Target → Bool
  | .cmd | .len | .acc _ | .buf _ => true
  | .id | .status | .ctrl | .chunks | .cap | .digest _ | .krom _ | .srom _ => false

/-- ACC_A..ACC_D stand at 0x020..0x02C (R21). -/
theorem offset_of_acc {n off : Nat} {k : Lane} (h : offsetSelects n off (.acc k)) : 0x020 ≤ off ∧ off ≤ 0x02C := by
  cases k <;> (cases h; decide)

/-- The offsets that R28 names are those of the targets whose write is dropped while busy. -/
theorem selects_droppedWhileBusy_iff (c : Config) (off : Nat) :
    (∃ x, selectTarget c off 4 = some x ∧ x.droppedWhileBusy = true) ↔
      off % 4 = 0 ∧ (off = 0x004 ∨ off = 0x010 ∨ (0x020 ≤ off ∧ off ≤ 0x02C) ∨
        (0x1000 ≤ off ∧ off < 0x1000 + c.bufBytes)) := by
  constructor
  · rintro ⟨x, hx, hd⟩
    obtain ⟨-, h4, ho⟩ := selectTarget_inv hx
    refine ⟨h4, ?_⟩
    cases x with
    | cmd => exact .inl ho
    | len => exact .inr (.inl ho)
    | acc k => exact .inr (.inr (.inl (offset_of_acc ho)))
    | buf a =>
      obtain ⟨rfl, ha⟩ := ho
      exact .inr (.inr (.inr (by omega)))
    | _ => cases hd
  · rintro ⟨h4, rfl | rfl | hacc | hbuf⟩
    · exact ⟨.cmd, selectTarget_of_offsetSelects c h4 rfl, rfl⟩
    · exact ⟨.len, selectTarget_of_offsetSelects c h4 rfl, rfl⟩
    · have : off = 0x020 ∨ off = 0x024 ∨ off = 0x028 ∨ off = 0x02C := by omega
      obtain rfl | rfl | rfl | rfl := this
      · exact ⟨.acc .a, selectTarget_of_offsetSelects c h4 rfl, rfl⟩
      · exact ⟨.acc .b, selectTarget_of_offsetSelects c h4 rfl, rfl⟩
      · exact ⟨.acc .c, selectTarget_of_offsetSelects c h4 rfl, rfl⟩
      · exact ⟨.acc .d, selectTarget_of_offsetSelects c h4 rfl, rfl⟩
    · exact ⟨.buf (off - 0x1000), selectTarget_of_offsetSelects c h4 ⟨by omega, by omega⟩, rfl⟩

/-! ### The operations that leave the engine as it is -/

variable {s t : State}

theorem sameEngine_passTurn (s : State) : s.SameEngine s.passTurn := by constructor <;> rfl

theorem sameEngine_answer (s : State) (r : Response) : s.SameEngine (s.answer r) := by constructor <;> rfl

theorem sameEngine_hostRead (s : State) (off size : Nat) : s.SameEngine (s.hostRead off size) := by
  constructor <;> rfl

theorem sameEngine_hostPoll (s : State) (off : Nat) (mask val : Word) : s.SameEngine (s.hostPoll off mask val) := by
  unfold State.hostPoll
  split
  · exact sameEngine_hostRead s off 4
  · constructor <;> rfl

/-! ### The code a CMD write leaves -/

/-- The code that the presentation of a word while idle leaves in ERR (R29, R111). -/
def errOfWord (w : Word) (s : State) : ErrCode :=
  match decode w with
  | .cmd i => rangeCheck i s
  | .badcmd _ => .badcmd

theorem errOfWord_cmd {w : Word} {i : Instr} (s : State) (h : decode w = .cmd i) : errOfWord w s = rangeCheck i s := by
  simp [errOfWord, h]

theorem errOfWord_badcmd {w : Word} {why : BadCmd} (s : State) (h : decode w = .badcmd why) :
    errOfWord w s = .badcmd := by
  simp [errOfWord, h]

/-- The word spells no command, or NOP, or one that fails its range check: the engine is done with it within the CMD
write (R113, R118). -/
def endsInItsWrite (w : Word) (s : State) : Prop := ∀ i, decode w = .cmd i → i = .nop ∨ rangeCheck i s ≠ .none

/-- NOP's acceptance is a rejection whose code is 0 (R118). -/
theorem accept_nop_eq_reject (s : State) : s.accept .nop = s.reject .none := rfl

/-- A command that ends in its own CMD write leaves its code and DONE. -/
theorem present_of_ends {i : Instr} (hb : s.busy = false) (h : i = .nop ∨ rangeCheck i s ≠ .none) :
    s.present i (rangeCheck i s) = (s.reject (rangeCheck i s)).answer (.write .ok) := by
  obtain rfl | hc := h
  · exact present_accept hb
  · exact present_reject hb hc

/-! ### The engine's side of a step -/

/-- What a step from `s` does to the engine, by the register it writes. -/
inductive EngineStep (s : State) : State → Prop where
  /-- The running command completes (R115). -/
  | completes (i : Instr) (hm : s.mover = .engine) (hp : s.pend = some i) : EngineStep s (effect i s).finish.passTurn
  /-- The reset input is low (R251). -/
  | resets (hm : s.mover = .reset) : EngineStep s s.assertReset
  /-- The engine is as before: no transaction, a read, or a bus error (R67, R71). -/
  | rests {t : State} (h : s.SameEngine t) : EngineStep s t
  /-- A write that is dropped while busy (R28). -/
  | drops (off : Nat) (v : Word) (x : Target) (hl : s.hostMakes (.write off 4 v)) (hb : s.busy = true)
      (hx : selectTarget s.cfg off 4 = some x) (hd : x.droppedWhileBusy = true) :
      EngineStep s (s.raiseOvr.answer (.write .ok))
  /-- A CMD write while idle that is NOP or is rejected (R113, R118). -/
  | commandEnds (w : Word) (hl : s.hostMakes (.write 0x004 4 w)) (hb : s.busy = false) (hw : endsInItsWrite w s) :
      EngineStep s ((s.reject (errOfWord w s)).answer (.write .ok))
  /-- A CMD write that starts a command (R114). -/
  | commandStarts (w : Word) (i : Instr) (hl : s.hostMakes (.write 0x004 4 w)) (hb : s.busy = false)
      (hw : decode w = .cmd i) (hi : i ≠ .nop) (hc : rangeCheck i s = .none) :
      EngineStep s (State.answer (.write .ok) { s with err := .none, done := false, pend := some i, busy := true })
  /-- A STATUS write (R25). -/
  | writesStatus (v : Word) (hl : s.hostMakes (.write 0x008 4 v)) :
      EngineStep s ((s.writeStatus v).answer (.write .ok))
  /-- A CTRL write (R30). -/
  | writesCtrl (v : Word) (hl : s.hostMakes (.write 0x00C 4 v)) : EngineStep s ((s.writeCtrl v).answer (.write .ok))
  /-- A LEN write while idle (R31). -/
  | writesLen (v : Word) (hl : s.hostMakes (.write 0x010 4 v)) (hb : s.busy = false) :
      EngineStep s ((s.setLen v).answer (.write .ok))
  /-- A write of an accumulator while idle (R34). -/
  | writesAcc (off : Nat) (v : Word) (k : Lane) (hl : s.hostMakes (.write off 4 v)) (hb : s.busy = false)
      (ho : 0x020 ≤ off ∧ off ≤ 0x02C) : EngineStep s ((s.setAcc (s.acc.set k v)).answer (.write .ok))
  /-- A write of the BUF window while idle (R69). -/
  | writesBuf (a : Nat) (v : Word) (hl : s.hostMakes (.write (0x1000 + a) 4 v)) (hb : s.busy = false)
      (ha : a + 4 ≤ s.cfg.bufBytes) : EngineStep s ((s.setBuf (s.buf.memWrite a 4 v.toNat)).answer (.write .ok))

theorem writeIdle_busy (s' : State) (h : s.busy = true) : s.writeIdle s' = s.raiseOvr := by simp [State.writeIdle, h]

theorem writeIdle_idle (s' : State) (h : s.busy = false) : s.writeIdle s' = s' := by simp [State.writeIdle, h]

/-- A CMD write while idle ends in its own write or starts a command. -/
theorem engineStep_present {w : Word} {i : Instr} (hl : s.hostMakes (.write 0x004 4 w)) (hb : s.busy = false)
    (hw : decode w = .cmd i) : EngineStep s (s.present i (rangeCheck i s)) := by
  by_cases he : i = .nop ∨ rangeCheck i s ≠ .none
  · rw [present_of_ends hb he, ← errOfWord_cmd s hw]
    exact .commandEnds w hl hb fun j hj => by rw [hw] at hj; cases hj; exact he
  · obtain ⟨hi, hc⟩ := not_or.mp he
    rw [not_not] at hc
    rw [hc, present_accept hb, s.accept_of_ne i hi]
    exact .commandStarts w i hl hb hw hi hc

/-- A write of a writable target other than CMD, by the target. -/
theorem engineStep_writeTarget {off : Nat} {v : Word} {x : Target} (hl : s.hostMakes (.write off 4 v))
    (hx : selectTarget s.cfg off 4 = some x) (hc : x ≠ .cmd) (hw : x.writable = true) :
    EngineStep s ((s.writeTarget v x).answer (.write .ok)) := by
  obtain ⟨-, h4, ho⟩ := selectTarget_inv hx
  by_cases hd : s.busy = true ∧ x.droppedWhileBusy = true
  · obtain ⟨hb, hd⟩ := hd
    have hdrop : s.writeTarget v x = s.raiseOvr := by
      cases x with
      | len => exact writeIdle_busy _ hb
      | acc k => exact writeIdle_busy _ hb
      | buf a => exact writeIdle_busy _ hb
      | cmd => exact absurd rfl hc
      | _ => cases hd
    rw [hdrop]
    exact .drops off v x hl hb hx hd
  · have hidle : x.droppedWhileBusy = true → s.busy = false := fun h => by
      rw [← Bool.not_eq_true]
      exact fun hb => hd ⟨hb, h⟩
    cases x with
    | status => cases ho; exact .writesStatus v hl
    | ctrl => cases ho; exact .writesCtrl v hl
    | len =>
      cases ho
      rw [State.writeTarget, writeIdle_idle _ (hidle rfl)]
      exact .writesLen v hl (hidle rfl)
    | acc k =>
      rw [State.writeTarget, writeIdle_idle _ (hidle rfl)]
      exact .writesAcc off v k hl (hidle rfl) (offset_of_acc ho)
    | buf a =>
      obtain ⟨rfl, ha⟩ := ho
      rw [State.writeTarget, writeIdle_idle _ (hidle rfl)]
      have hmul := (bufBytes_bounds s.cfg).2.2
      exact .writesBuf a v hl (hidle rfl) (by omega)
    | cmd => exact absurd rfl hc
    | _ => cases hw

/-- The inversion of a step, on the engine's side. -/
theorem engineStep_of_step (h : step s = .next t) : EngineStep s t := by
  cases step_inv h with
  | completes i hm hp => exact .completes i hm hp
  | engineRests hm hp => exact .rests (sameEngine_passTurn s)
  | resets hm => exact .resets hm
  | hostRests hm hs => exact .rests (sameEngine_passTurn s)
  | reads off size ls hm hs => exact .rests (sameEngine_hostRead s off size)
  | polls off mask val ls hm hs => exact .rests (sameEngine_hostPoll s off mask val)
  | drops off size v ls hm hs hx hb =>
    obtain ⟨rfl, rfl⟩ := selectTarget_cmd_inv hx
    exact .drops 0x004 v .cmd (hostMakes_of_script hm hs) hb hx rfl
  | rejectsWord off size v ls why hm hs hx hb hd =>
    obtain ⟨rfl, rfl⟩ := selectTarget_cmd_inv hx
    rw [← errOfWord_badcmd s hd]
    exact .commandEnds v (hostMakes_of_script hm hs) hb fun i hi => by rw [hd] at hi; cases hi
  | presents off size v ls i hm hs hx hb hd =>
    obtain ⟨rfl, rfl⟩ := selectTarget_cmd_inv hx
    exact engineStep_present (hostMakes_of_script hm hs) hb hd
  | writes off size v ls x hm hs hx hc hw =>
    obtain ⟨rfl, -, -⟩ := selectTarget_inv hx
    exact engineStep_writeTarget (hostMakes_of_script hm hs) hx hc hw
  | writeFails off size v ls hm hs hx => exact .rests (sameEngine_answer s _)

end Sys2Proof.Machine
end

section
/-! PROOFS. The invariant of the machine, kept by every step (10_state.md R26, R27; 20_memory.md R79; 40_commands.md R111,
R114). -/

namespace Sys2Proof.Machine

variable {s t : State}

/-! ### The range check of the running command and the bytes it writes -/

/-- The range check looks at LEN and the configuration alone (R111). -/
theorem rangeCheck_congr (i : Instr) (hlen : t.len = s.len) (hcfg : t.cfg = s.cfg) : rangeCheck i t = rangeCheck i s := by
  cases i <;> simp only [rangeCheck, lenCheck, blkCheck, hlen, hcfg]

theorem lenCheck_eq_none_iff (s : State) : lenCheck s = .none ↔ capOf s.len.toNat ≤ s.cfg.bufBytes := by
  unfold lenCheck capOf
  split <;> simp <;> omega

/-- Only PAD and DIGEST write the buffer, and both write the padding (R43, R200). -/
theorem effect_buf (i : Instr) (s : State) :
    (effect i s).buf = if i = .pad ∨ i = .digest then s.buf.padMessage s.len.toNat else s.buf := by
  cases i <;> simp [effect, digestEffect]

theorem wf_effect_buf (i : Instr) (h : s.buf.wf = true) : (effect i s).buf.wf = true := by
  rw [effect_buf]
  split
  · exact Memory.wf_padMessage _ _ h
  · exact h

/-- A command that passed its range check forms no address outside the buffer (R79, R133). -/
theorem below_effect_buf {i : Instr} (h : s.buf.below s.cfg.bufBytes) (hc : rangeCheck i s = .none) :
    (effect i s).buf.below s.cfg.bufBytes := by
  rw [effect_buf]
  split
  · next hi =>
    have hlen : lenCheck s = .none := by obtain rfl | rfl := hi <;> exact hc
    exact Memory.below_padMessage _ h ((lenCheck_eq_none_iff s).mp hlen)
  · exact h

/-! ### Three ways to keep the invariant -/

/-- In a state with no command running the invariant is about the buffer alone. -/
theorem State.Inv.of_idle (hwf : t.buf.wf = true) (hbelow : t.buf.below t.cfg.bufBytes) (hb : t.busy = false)
    (hp : t.pend = none) : t.Inv where
  bufCanonical := hwf
  bufInside := hbelow
  busyIffPend := by rw [hb, hp]; rfl
  doneOrBusy h := by rw [hb] at h; cases h
  errWhileBusy h := by rw [hb] at h; cases h
  pendFits i h := by rw [hp] at h; cases h

/-- The invariant looks at no register but these, and DONE may fall. -/
theorem State.Inv.congr (hs : s.Inv) (hbuf : t.buf = s.buf) (hlen : t.len = s.len) (hbusy : t.busy = s.busy)
    (hdone : s.done = false → t.done = false) (herr : t.err = s.err) (hpend : t.pend = s.pend) (hcfg : t.cfg = s.cfg) :
    t.Inv where
  bufCanonical := hbuf ▸ hs.bufCanonical
  bufInside := by rw [hbuf, hcfg]; exact hs.bufInside
  busyIffPend := by rw [hbusy, hpend]; exact hs.busyIffPend
  doneOrBusy h := hdone (hs.doneOrBusy (hbusy ▸ h))
  errWhileBusy h := herr ▸ hs.errWhileBusy (hbusy ▸ h)
  pendFits i h := by rw [rangeCheck_congr i hlen hcfg]; exact hs.pendFits i (hpend ▸ h)

theorem State.Inv.sameEngine (hs : s.Inv) (h : s.SameEngine t) : t.Inv :=
  hs.congr h.buf h.len h.busy (fun hd => h.done.trans hd) h.err h.pend h.cfg

theorem State.Inv.pend_of_idle (hs : s.Inv) (hb : s.busy = false) : s.pend = none := by
  rw [← Option.not_isSome_iff_eq_none, ← hs.busyIffPend, hb]
  decide

/-- The completion of a command that passed its range check. -/
theorem State.Inv.completes (hs : s.Inv) {i : Instr} (hp : s.pend = some i) : (effect i s).finish.passTurn.Inv := by
  obtain ⟨-, -, -, -, -, -, -, hcfg, -⟩ := effect_frame i s
  have hbelow := below_effect_buf hs.bufInside (hs.pendFits i hp).2
  rw [← hcfg] at hbelow
  exact .of_idle (wf_effect_buf i hs.bufCanonical) hbelow rfl rfl

/-- The acceptance of a command that passes its range check (R114). -/
theorem State.Inv.commandStarts (hs : s.Inv) {i : Instr} (hi : i ≠ .nop) (hc : rangeCheck i s = .none) :
    State.Inv { s with err := .none, done := false, pend := some i, busy := true } where
  bufCanonical := hs.bufCanonical
  bufInside := hs.bufInside
  busyIffPend := rfl
  doneOrBusy _ := rfl
  errWhileBusy _ := rfl
  pendFits j hj := by
    cases hj
    refine ⟨hi, Eq.trans ?_ hc⟩
    exact rangeCheck_congr i rfl rfl

/-- Settles O45, by the cases of `EngineStep`: the engine is idle afterwards, or the registers of the invariant are as
before, or a command that passes its range check starts. -/
theorem stepKeepsInvariant : Obligations.StepKeepsInvariant := by
  unfold Obligations.StepKeepsInvariant
  intro s t hs h
  cases engineStep_of_step h with
  | completes i hm hp => exact hs.completes hp
  | resets hm => exact .of_idle rfl (by simp) rfl rfl
  | rests h => exact hs.sameEngine h
  | drops off v x hl hb hx hd => exact hs.congr rfl rfl rfl id rfl rfl rfl
  | commandEnds w hl hb hw => exact .of_idle hs.bufCanonical hs.bufInside hb (hs.pend_of_idle hb)
  | commandStarts w i hl hb hw hi hc => exact (hs.commandStarts hi hc).sameEngine (sameEngine_answer _ _)
  | writesStatus v hl => exact hs.congr rfl rfl rfl (fun hd => by simp [hd]) rfl rfl rfl
  | writesCtrl v hl => exact hs.congr rfl rfl rfl id rfl rfl rfl
  | writesLen v hl hb => exact .of_idle hs.bufCanonical hs.bufInside hb (hs.pend_of_idle hb)
  | writesAcc off v k hl hb ho => exact hs.congr rfl rfl rfl id rfl rfl rfl
  | writesBuf a v hl hb ha =>
    exact .of_idle (Memory.wf_memWrite _ _ _ _ hs.bufCanonical) (Memory.below_memWrite _ hs.bufInside ha) hb
      (hs.pend_of_idle hb)

/-- Settles O44: after reset the buffer lists nothing and no command runs. -/
theorem resetMeetsInvariant : Obligations.ResetMeetsInvariant :=
  .of_idle reset_buf_wf (by simp [State.reset]) rfl rfl

end Sys2Proof.Machine
end

section
/-! PROOFS. The registers as the host reads and writes them (10_state.md R21-R37, R44). -/

namespace Sys2Proof.Machine

variable {s : State}

/-! ### A read and a write of a target -/

/-- A read of an aligned offset returns the target that stands there, makes the draws of that read, and leaves the engine
as it is (R66, R71). -/
theorem stepAnswers_read {off : Nat} {x : Target} (hl : s.hostMakes (.read off 4)) (h4 : off % 4 = 0)
    (ho : offsetSelects s.cfg.bufBytes off x) :
    s.stepAnswers (.read (s.readTarget x).1 .ok) s ∧ ∀ t, step s = .next t → t.draws = (s.readTarget x).2 := by
  have hbus : s.busRead off 4 = ((s.readTarget x).1, .ok, (s.readTarget x).2) := by
    rw [State.busRead, selectTarget_of_offsetSelects _ h4 ho]
  have hstep := step_read hl
  refine ⟨⟨_, hstep, sameEngine_hostRead s off 4, ?_⟩, fun t ht => ?_⟩
  · constructor <;> simp [State.hostRead, hbus]
  · rw [hstep] at ht
    cases ht
    simp [State.hostRead, hbus]

/-- No register write touches the host's side or the schedule. -/
theorem writeTarget_host (s : State) (v : Word) (x : Target) :
    (s.writeTarget v x).script = s.script ∧ (s.writeTarget v x).turns = s.turns ∧
      (s.writeTarget v x).responses = s.responses := by
  cases x <;> simp [State.writeTarget, State.writeIdle, apply_ite State.script, apply_ite State.turns,
    apply_ite State.responses]

/-- A write, answered OK, of a writable target other than CMD (R66). -/
theorem stepAnswers_write {off : Nat} {v : Word} {x : Target} (hl : s.hostMakes (.write off 4 v)) (h4 : off % 4 = 0)
    (ho : offsetSelects s.cfg.bufBytes off x) (hc : x ≠ .cmd) (hw : x.writable = true) :
    s.stepAnswers (.write .ok) (s.writeTarget v x) := by
  obtain ⟨hscript, hturns, hresp⟩ := writeTarget_host s v x
  refine ⟨_, step_write hl (selectTarget_of_offsetSelects _ h4 ho) hc hw, sameEngine_answer _ _, ?_⟩
  constructor <;> simp [hscript, hturns, hresp]

/-- A write of an RO target is a bus error and changes nothing (R22, R67). -/
theorem stepAnswers_write_readOnly {off : Nat} {v : Word} {x : Target} (hl : s.hostMakes (.write off 4 v))
    (h4 : off % 4 = 0) (ho : offsetSelects s.cfg.bufBytes off x) (hw : x.writable = false) :
    s.stepAnswers (.write .err) s := by
  have hx : ∀ y, selectTarget s.cfg off 4 = some y → y.writable = false := fun y hy => by
    rw [selectTarget_of_offsetSelects _ h4 ho] at hy
    cases hy
    exact hw
  refine ⟨_, step_write_fails hl hx, sameEngine_answer _ _, ?_⟩
  constructor <;> rfl

theorem readIdle_fst (s : State) (value : Word × Nat) :
    (s.readIdle value).1 = if s.busy then Config.freeWord s.draws else value.1 := apply_ite Prod.fst _ _ _

theorem readIdle_snd (s : State) (value : Word × Nat) :
    (s.readIdle value).2 = if s.busy then s.draws + 1 else value.2 := apply_ite Prod.snd _ _ _

/-! ### STATUS and CTRL -/

/-- The STATUS word field by field, most significant field first (R25). -/
theorem statusWord_eq_fields (s : State) :
    statusWord s = BitVec.ofNat 24 0 ++ BitVec.ofNat 4 s.err.code ++ 0#1 ++ BitVec.ofBool s.ovr ++
      BitVec.ofBool s.done ++ BitVec.ofBool s.busy := by
  have hbits : ∀ (e : ErrCode) (ovr done busy : Bool),
      BitVec.ofNat 32 e.code <<< 4 ||| BitVec.ofNat 32 ovr.toNat <<< 2 ||| BitVec.ofNat 32 done.toNat <<< 1 |||
        BitVec.ofNat 32 busy.toNat =
      BitVec.ofNat 24 0 ++ BitVec.ofNat 4 e.code ++ 0#1 ++ BitVec.ofBool ovr ++ BitVec.ofBool done ++
        BitVec.ofBool busy := by
    intro e
    cases e <;> decide
  exact hbits s.err s.ovr s.done s.busy

theorem ctrlWord_eq_fields (s : State) : ctrlWord s = BitVec.ofNat 31 0 ++ BitVec.ofBool s.ie := by
  have hbits : ∀ ie : Bool, BitVec.ofNat 32 ie.toNat = BitVec.ofNat 31 0 ++ BitVec.ofBool ie := by decide
  exact hbits s.ie

/-- A write of 1 to bit 1 or 2 clears DONE or OVR, a write of 0 leaves it (R25). -/
theorem writeStatus_eq (s : State) (w : Word) :
    s.writeStatus w =
      { s with done := if w.getLsbD 1 then false else s.done, ovr := if w.getLsbD 2 then false else s.ovr } := by
  have hclear : ∀ flag bit : Bool, (flag && !bit) = if bit then false else flag := by decide
  rw [State.writeStatus, hclear, hclear]

/-- Settles O30: the read is the STATUS word by its fields, the write is the write-one-to-clear of `writeStatus_eq`. -/
theorem statusRegister : Obligations.StatusRegister := by
  unfold Obligations.StatusRegister
  refine ⟨fun s hl => ?_, fun s w hl => ?_, rfl, rfl, rfl, rfl⟩
  · rw [← statusWord_eq_fields]
    exact (stepAnswers_read (x := .status) hl rfl rfl).1
  · rw [← writeStatus_eq]
    exact stepAnswers_write (x := .status) hl rfl rfl (by decide) rfl

/-- Settles O31: the read is the CTRL word by its fields, the write takes bit 0 alone. -/
theorem controlRegister : Obligations.ControlRegister := by
  unfold Obligations.ControlRegister
  refine ⟨fun s hl => ?_, fun s w hl => ?_, rfl⟩
  · rw [← ctrlWord_eq_fields]
    exact (stepAnswers_read (x := .ctrl) hl rfl rfl).1
  · exact stepAnswers_write (x := .ctrl) hl rfl rfl (by decide) rfl

/-! ### LEN, ACC and DIGEST -/

/-- Settles O32: the read of LEN, and its write while idle or dropped while busy. -/
theorem lengthRegister : Obligations.LengthRegister := by
  unfold Obligations.LengthRegister
  exact ⟨fun s hl => (stepAnswers_read (x := .len) hl rfl rfl).1,
    fun s w hl => stepAnswers_write (x := .len) hl rfl rfl (by decide) rfl⟩

/-- A read of an accumulator (R34). -/
theorem stepAnswers_readAcc {off : Nat} {k : Lane} (hl : s.hostMakes (.read off 4)) (h4 : off % 4 = 0)
    (ho : offsetSelects s.cfg.bufBytes off (.acc k)) :
    s.stepAnswers (.read (if s.busy then Config.freeWord s.draws else s.acc.get k) .ok) s ∧
      ∀ t, step s = .next t → t.draws = if s.busy then s.draws + 1 else s.draws := by
  have h := stepAnswers_read hl h4 ho
  rwa [State.readTarget, readIdle_fst, readIdle_snd] at h

/-- A write of an accumulator (R34). -/
theorem stepAnswers_writeAcc {off : Nat} {v : Word} {k : Lane} (hl : s.hostMakes (.write off 4 v)) (h4 : off % 4 = 0)
    (ho : offsetSelects s.cfg.bufBytes off (.acc k)) :
    s.stepAnswers (.write .ok) (if s.busy then { s with ovr := true } else { s with acc := s.acc.set k v }) :=
  stepAnswers_write hl h4 ho (by simp) rfl

/-- Settles O33: each of the four offsets selects its accumulator. -/
theorem accumulatorRegisters : Obligations.AccumulatorRegisters := by
  unfold Obligations.AccumulatorRegisters
  refine ⟨fun s k off hmem hl => ?_, fun s w hl => stepAnswers_writeAcc (k := .a) hl rfl rfl,
    fun s w hl => stepAnswers_writeAcc (k := .b) hl rfl rfl, fun s w hl => stepAnswers_writeAcc (k := .c) hl rfl rfl,
    fun s w hl => stepAnswers_writeAcc (k := .d) hl rfl rfl⟩
  simp only [List.mem_cons, Prod.mk.injEq, List.not_mem_nil, or_false] at hmem
  obtain ⟨rfl, rfl⟩ | ⟨rfl, rfl⟩ | ⟨rfl, rfl⟩ | ⟨rfl, rfl⟩ := hmem <;> exact stepAnswers_readAcc hl rfl rfl

/-- A read of a digest word, and its write, a bus error (R35). -/
theorem stepAnswers_digest {off : Nat} {k : Lane} (h4 : off % 4 = 0)
    (ho : offsetSelects s.cfg.bufBytes off (.digest k)) :
    (s.hostMakes (.read off 4) →
      s.stepAnswers (.read (if s.busy then Config.freeWord s.draws else s.dig.get k) .ok) s ∧
      ∀ t, step s = .next t → t.draws = if s.busy then s.draws + 1 else s.draws) ∧
    (∀ w : Word, s.hostMakes (.write off 4 w) → s.stepAnswers (.write .err) s) := by
  refine ⟨fun hl => ?_, fun w hl => stepAnswers_write_readOnly hl h4 ho rfl⟩
  have h := stepAnswers_read hl h4 ho
  rwa [State.readTarget, readIdle_fst, readIdle_snd] at h

/-- Settles O34: each of the four offsets selects its digest word, an RO target. -/
theorem digestRegisters : Obligations.DigestRegisters := by
  unfold Obligations.DigestRegisters
  intro s v off hmem
  simp only [List.mem_cons, Prod.mk.injEq, List.not_mem_nil, or_false] at hmem
  obtain ⟨rfl, rfl⟩ | ⟨rfl, rfl⟩ | ⟨rfl, rfl⟩ | ⟨rfl, rfl⟩ := hmem
  · exact stepAnswers_digest (k := .a) rfl rfl
  · exact stepAnswers_digest (k := .b) rfl rfl
  · exact stepAnswers_digest (k := .c) rfl rfl
  · exact stepAnswers_digest (k := .d) rfl rfl

/-! ### The registers that only follow from others, and the ROMs -/

/-- A word is the word of its value. -/
theorem eq_ofNat_of_toNat_eq {v : Word} {n : Nat} (h : v.toNat = n) : v = BitVec.ofNat 32 n := by
  rw [← h, BitVec.ofNat_toNat, BitVec.setWidth_eq]

/-- Settles O35: each offset selects its target, whose read looks neither at BUSY nor at the draws. -/
theorem constantAndDerivedReads : Obligations.ConstantAndDerivedReads := by
  unfold Obligations.ConstantAndDerivedReads
  intro s off v hcase hl
  obtain ⟨rfl, rfl⟩ | ⟨rfl, rfl⟩ | ⟨rfl, hv⟩ | ⟨rfl, hv⟩ | ⟨i, hi, rfl, rfl⟩ | ⟨i, hi, rfl, hv⟩ := hcase
  · exact stepAnswers_read (x := .id) hl rfl rfl
  · exact stepAnswers_read (x := .cmd) hl rfl rfl
  · rw [eq_ofNat_of_toNat_eq hv]
    exact stepAnswers_read (x := .chunks) hl rfl rfl
  · rw [eq_ofNat_of_toNat_eq hv]
    exact stepAnswers_read (x := .cap) hl rfl rfl
  · exact stepAnswers_read (x := .krom i) hl (by omega) ⟨hi, rfl⟩
  · rw [eq_ofNat_of_toNat_eq hv]
    exact stepAnswers_read (x := .srom i) hl (by omega) ⟨hi, rfl⟩

/-! ### After reset -/

/-- Settles O43: the table of R44, read off State.reset. -/
theorem resetState : Obligations.ResetState := by
  unfold Obligations.ResetState
  exact ⟨rfl, rfl, rfl, rfl, rfl, rfl, rfl, rfl, rfl, fun x => Memory.read?_nil x, rfl, by decide⟩

end Sys2Proof.Machine
end

section
/-! PROOFS. What raises and lowers each flag, what ERR holds, and who may write each register (10_state.md R26-R29, R43).
Read from a change to its cause, each follows from the cases of `EngineStep`; read from the cause to the change, the cause
says which step it is. -/

namespace Sys2Proof.Machine

variable {s t : State}

/-! ### The step of each cause -/

theorem step_completes {i : Instr} (hm : s.mover = .engine) (hp : s.pend = some i) :
    step s = .next (effect i s).finish.passTurn := by
  rw [← exec_runs ⟨hm, hp⟩]
  exact step_of_instr (by simp [State.fetch, hm, State.engineTurn, hp])

theorem step_resets (hm : s.mover = .reset) : step s = .next s.assertReset :=
  step_of_state (by simp [State.fetch, hm])

/-- A CMD write while idle that is NOP or is rejected. -/
theorem step_commandEnds {w : Word} (hl : s.hostMakes (.write 0x004 4 w)) (hb : s.busy = false)
    (hw : endsInItsWrite w s) : step s = .next ((s.reject (errOfWord w s)).answer (.write .ok)) := by
  cases hd : decode w with
  | badcmd why => rw [errOfWord_badcmd s hd]; exact step_command_bad hl hb hd
  | cmd i => rw [errOfWord_cmd s hd, ← present_of_ends hb (hw i hd)]; exact step_command hl hd

/-- A CMD write that starts a command. -/
theorem step_commandStarts {w : Word} {i : Instr} (hl : s.hostMakes (.write 0x004 4 w)) (hb : s.busy = false)
    (hd : decode w = .cmd i) (hi : i ≠ .nop) (hc : rangeCheck i s = .none) :
    step s = .next (State.answer (.write .ok) { s with err := .none, done := false, pend := some i, busy := true }) := by
  rw [step_command hl hd, hc, present_accept hb, s.accept_of_ne i hi]

theorem step_writesStatus {w : Word} (hl : s.hostMakes (.write 0x008 4 w)) :
    step s = .next ((s.writeStatus w).answer (.write .ok)) :=
  step_write (x := .status) hl (selectTarget_of_offsetSelects _ rfl rfl) (by decide) rfl

/-- A write that is dropped while busy. -/
theorem step_drops {off : Nat} {v : Word} {x : Target} (hl : s.hostMakes (.write off 4 v)) (hb : s.busy = true)
    (hx : selectTarget s.cfg off 4 = some x) (hd : x.droppedWhileBusy = true) :
    step s = .next (s.raiseOvr.answer (.write .ok)) := by
  cases x with
  | cmd =>
    obtain ⟨rfl, -⟩ := selectTarget_cmd_inv hx
    exact step_command_busy hl hb
  | len => rw [step_write hl hx (by simp) rfl, State.writeTarget, writeIdle_busy _ hb]
  | acc k => rw [step_write hl hx (by simp) rfl, State.writeTarget, writeIdle_busy _ hb]
  | buf a => rw [step_write hl hx (by simp) rfl, State.writeTarget, writeIdle_busy _ hb]
  | _ => cases hd

/-- A step leads to one state. -/
theorem next_unique {t' : State} (h : step s = .next t) (h' : step s = .next t') : t = t' := by
  rw [h] at h'
  cases h'
  rfl

/-! ### BUSY and DONE -/

theorem State.Inv.busy_iff_pend (hs : s.Inv) : s.busy = true ↔ s.pend ≠ none := by
  rw [hs.busyIffPend, Option.isSome_iff_ne_none]

/-- A completion, in the words of R26. -/
theorem completion_cause {i : Instr} (hm : s.mover = .engine) (hp : s.pend = some i) :
    s.mover = .engine ∧ s.pend ≠ none := ⟨hm, by simp [hp]⟩

/-- Settles O46: of the cases of `EngineStep` only the start of a command raises BUSY, and only a completion and reset
lower it. -/
theorem busyRisesAndFalls : Obligations.BusyRisesAndFalls := by
  unfold Obligations.BusyRisesAndFalls
  intro s t hs h
  refine ⟨fun hb ht => ?_, fun hb ht => ?_, (stepKeepsInvariant s t hs h).busy_iff_pend⟩
  · cases engineStep_of_step h with
    | commandStarts w i hl hb hw hi hc => exact ⟨w, i, hl, hw, hi, hc, rfl⟩
    | rests h => simp [h.busy, hb] at ht
    | _ => simp [hb] at ht
  · cases engineStep_of_step h with
    | completes i hm hp => exact .inl (completion_cause hm hp)
    | resets hm => exact .inr hm
    | rests h => simp [h.busy, hb] at ht
    | _ => simp [hb] at ht

/-- What raises DONE: a completion, or a CMD write while idle that ends in its own write (R27). -/
theorem done_rises_iff (hd : s.done = false) (h : step s = .next t) :
    t.done = true ↔ (s.mover = .engine ∧ s.pend ≠ none) ∨
      (s.busy = false ∧ ∃ w : Word, s.hostMakes (.write 0x004 4 w) ∧ endsInItsWrite w s) := by
  constructor
  · intro ht
    cases engineStep_of_step h with
    | completes i hm hp => exact .inl (completion_cause hm hp)
    | commandEnds w hl hb hw => exact .inr ⟨hb, w, hl, hw⟩
    | rests h => simp [h.done, hd] at ht
    | _ => simp [hd] at ht
  · rintro (⟨hm, hp⟩ | ⟨hb, w, hl, hw⟩)
    · obtain ⟨i, hi⟩ := Option.ne_none_iff_exists'.mp hp
      rw [next_unique h (step_completes hm hi)]
      rfl
    · rw [next_unique h (step_commandEnds hl hb hw)]
      rfl

/-- What lowers DONE: reset, a STATUS write with bit 1 set, or the start of a command (R27). -/
theorem done_falls_iff (hs : s.Inv) (hd : s.done = true) (h : step s = .next t) :
    t.done = false ↔ s.mover = .reset ∨ (∃ w : Word, s.hostMakes (.write 0x008 4 w) ∧ w.getLsbD 1 = true) ∨
      (∃ (w : Word) (i : Instr), s.hostMakes (.write 0x004 4 w) ∧ decode w = .cmd i ∧ i ≠ .nop ∧
        rangeCheck i s = .none) := by
  constructor
  · intro ht
    cases engineStep_of_step h with
    | resets hm => exact .inl hm
    | writesStatus w hl => exact .inr (.inl ⟨w, hl, by simpa [hd] using ht⟩)
    | commandStarts w i hl hb hw hi hc => exact .inr (.inr ⟨w, i, hl, hw, hi, hc⟩)
    | rests h => simp [h.done, hd] at ht
    | _ => simp [hd] at ht
  · rintro (hm | ⟨w, hl, hw⟩ | ⟨w, i, hl, hw, hi, hc⟩)
    · rw [next_unique h (step_resets hm)]
      rfl
    · rw [next_unique h (step_writesStatus hl)]
      simp [hw]
    · have hb : s.busy = false := by
        rw [← Bool.not_eq_true]
        exact fun hb => by simp [hs.doneOrBusy hb] at hd
      rw [next_unique h (step_commandStarts hl hb hw hi hc)]
      rfl

/-- Settles O47: what raises and what lowers DONE, and the invariant of the state after the step. -/
theorem doneRisesAndFalls : Obligations.DoneRisesAndFalls := by
  unfold Obligations.DoneRisesAndFalls
  intro s t hs h
  refine ⟨fun hd => done_rises_iff hd h, fun hd => done_falls_iff hs hd h, fun ⟨hd, hb⟩ => ?_⟩
  rw [(stepKeepsInvariant s t hs h).doneOrBusy hb] at hd
  cases hd

/-! ### OVR -/

/-- What raises OVR: a write, while busy, of a target whose write is then dropped (R28). -/
theorem ovr_rises_iff (ho : s.ovr = false) (h : step s = .next t) :
    t.ovr = true ↔ s.busy = true ∧ ∃ (off : Nat) (w : Word), s.hostMakes (.write off 4 w) ∧
      ∃ x, selectTarget s.cfg off 4 = some x ∧ x.droppedWhileBusy = true := by
  constructor
  · intro ht
    cases engineStep_of_step h with
    | drops off w x hl hb hx hd => exact ⟨hb, off, w, hl, x, hx, hd⟩
    | completes i hm hp => simp [effect_frame i s, ho] at ht
    | rests h => simp [h.ovr, ho] at ht
    | _ => simp [ho] at ht
  · rintro ⟨hb, off, w, hl, x, hx, hd⟩
    rw [next_unique h (step_drops hl hb hx hd)]
    rfl

/-- What lowers OVR: reset, or a STATUS write with bit 2 set (R28). -/
theorem ovr_falls_iff (ho : s.ovr = true) (h : step s = .next t) :
    t.ovr = false ↔ s.mover = .reset ∨ ∃ w : Word, s.hostMakes (.write 0x008 4 w) ∧ w.getLsbD 2 = true := by
  constructor
  · intro ht
    cases engineStep_of_step h with
    | resets hm => exact .inl hm
    | writesStatus w hl => exact .inr ⟨w, hl, by simpa [ho] using ht⟩
    | completes i hm hp => simp [effect_frame i s, ho] at ht
    | rests h => simp [h.ovr, ho] at ht
    | _ => simp [ho] at ht
  · rintro (hm | ⟨w, hl, hw⟩)
    · rw [next_unique h (step_resets hm)]
      rfl
    · rw [next_unique h (step_writesStatus hl)]
      simp [hw]

/-- Settles O48: what raises and what lowers OVR, the dropped targets by their offsets. -/
theorem overrunRisesAndFalls : Obligations.OverrunRisesAndFalls := by
  unfold Obligations.OverrunRisesAndFalls
  intro s t h
  refine ⟨fun ho => ?_, fun ho => ovr_falls_iff ho h⟩
  simp only [ovr_rises_iff ho h, selects_droppedWhileBusy_iff]

/-! ### ERR -/

/-- A CMD write while idle leaves the code of its word in ERR (R29). -/
theorem err_of_commandWrite {w : Word} (hb : s.busy = false) (hl : s.hostMakes (.write 0x004 4 w))
    (h : step s = .next t) : t.err = errOfWord w s := by
  by_cases hw : endsInItsWrite w s
  · rw [next_unique h (step_commandEnds hl hb hw)]
    rfl
  · obtain ⟨i, hd, hi, hc⟩ : ∃ i, decode w = .cmd i ∧ i ≠ .nop ∧ rangeCheck i s = .none := by
      simpa [endsInItsWrite] using hw
    rw [next_unique h (step_commandStarts hl hb hd hi hc), errOfWord_cmd s hd, hc]
    rfl

/-- Nothing else but reset changes ERR (R29). -/
theorem err_changes (hne : t.err ≠ s.err) (h : step s = .next t) :
    s.mover = .reset ∨ (s.busy = false ∧ ∃ w : Word, s.hostMakes (.write 0x004 4 w)) := by
  cases engineStep_of_step h with
  | resets hm => exact .inl hm
  | commandEnds w hl hb hw => exact .inr ⟨hb, w, hl⟩
  | commandStarts w i hl hb hw hi hc => exact .inr ⟨hb, w, hl⟩
  | completes i hm hp => simp [effect_frame i s] at hne
  | rests h => exact absurd h.err hne
  | _ => simp at hne

/-- Settles O49: a CMD write while idle leaves `errOfWord`, which is the range check of the command its word spells. -/
theorem errorCodeOfLastCommand : Obligations.ErrorCodeOfLastCommand := by
  unfold Obligations.ErrorCodeOfLastCommand
  intro s t h
  refine ⟨fun hne => err_changes hne h, fun hm => ?_, fun w hb hl => ?_, ⟨rfl, rfl, rfl, rfl⟩, fun e => ?_⟩
  · rw [next_unique h (step_resets hm)]
    rfl
  · rw [err_of_commandWrite hb hl h]
    refine ⟨fun ⟨why, hd⟩ => errOfWord_badcmd s hd, ?_, fun blk hd => errOfWord_cmd s hd, ?_⟩
    · rintro (hd | hd) <;> exact errOfWord_cmd s hd
    · rintro (hd | hd | hd) <;> exact errOfWord_cmd s hd
  · cases e <;> decide

/-! ### Who writes each register -/

/-- Only FINAL and DIGEST write DIG (R43). -/
theorem effect_dig_of_ne {i : Instr} (s : State) (hf : i ≠ .final) (hd : i ≠ .digest) : (effect i s).dig = s.dig := by
  cases i with
  | final => exact absurd rfl hf
  | digest => exact absurd rfl hd
  | _ => simp [effect]

/-- Only INIT, DIGEST and COMPRESS write ACC (R43). -/
theorem effect_acc_of_ne {i : Instr} (s : State) (hi : i ≠ .init) (hd : i ≠ .digest) (hc : ∀ b, i ≠ .compress b) :
    (effect i s).acc = s.acc := by
  cases i with
  | init => exact absurd rfl hi
  | digest => exact absurd rfl hd
  | compress b => exact absurd rfl (hc b)
  | _ => simp [effect]

theorem cause_of_dig_change (hne : t.dig ≠ s.dig) (hr : s.mover ≠ .reset) (h : step s = .next t) :
    s.mover = .engine ∧ (s.pend = some .final ∨ s.pend = some .digest) := by
  cases engineStep_of_step h with
  | completes i hm hp =>
    refine ⟨hm, ?_⟩
    by_contra hno
    obtain ⟨hf, hd⟩ : i ≠ .final ∧ i ≠ .digest := by simpa [hp] using hno
    exact hne (effect_dig_of_ne s hf hd)
  | resets hm => exact absurd hm hr
  | rests h => exact absurd h.dig hne
  | _ => simp at hne

theorem cause_of_acc_change (hne : t.acc ≠ s.acc) (hr : s.mover ≠ .reset) (h : step s = .next t) :
    (s.mover = .engine ∧ (s.pend = some .init ∨ s.pend = some .digest ∨ ∃ b, s.pend = some (.compress b))) ∨
      (s.busy = false ∧ ∃ (off : Nat) (w : Word), s.hostMakes (.write off 4 w) ∧ 0x020 ≤ off ∧ off ≤ 0x02C) := by
  cases engineStep_of_step h with
  | completes i hm hp =>
    refine .inl ⟨hm, ?_⟩
    by_contra hno
    obtain ⟨hi, hd, hc⟩ : i ≠ .init ∧ i ≠ .digest ∧ ∀ b, i ≠ .compress b := by simpa [hp] using hno
    exact hne (effect_acc_of_ne s hi hd hc)
  | writesAcc off w k hl hb ho => exact .inr ⟨hb, off, w, hl, ho⟩
  | resets hm => exact absurd hm hr
  | rests h => exact absurd h.acc hne
  | _ => simp at hne

theorem cause_of_buf_change (hne : t.buf ≠ s.buf) (hr : s.mover ≠ .reset) (h : step s = .next t) :
    (s.mover = .engine ∧ (s.pend = some .pad ∨ s.pend = some .digest)) ∨
      (s.busy = false ∧ ∃ (off : Nat) (w : Word), s.hostMakes (.write off 4 w) ∧ 0x1000 ≤ off) := by
  cases engineStep_of_step h with
  | completes i hm hp =>
    refine .inl ⟨hm, ?_⟩
    by_contra hno
    have hi : ¬ (i = .pad ∨ i = .digest) := by simpa [hp] using hno
    exact hne ((effect_buf i s).trans (if_neg hi))
  | writesBuf a w hl hb ha => exact .inr ⟨hb, 0x1000 + a, w, hl, Nat.le_add_right _ _⟩
  | resets hm => exact absurd hm hr
  | rests h => exact absurd h.buf hne
  | _ => simp at hne

theorem cause_of_len_change (hne : t.len ≠ s.len) (hr : s.mover ≠ .reset) (h : step s = .next t) :
    s.busy = false ∧ s.hostMakes (.write 0x010 4 t.len) := by
  cases engineStep_of_step h with
  | completes i hm hp => simp [effect_frame i s] at hne
  | writesLen w hl hb => exact ⟨hb, hl⟩
  | resets hm => exact absurd hm hr
  | rests h => exact absurd h.len hne
  | _ => simp at hne

theorem cause_of_ie_change (hne : t.ie ≠ s.ie) (hr : s.mover ≠ .reset) (h : step s = .next t) :
    ∃ w : Word, s.hostMakes (.write 0x00C 4 w) := by
  cases engineStep_of_step h with
  | completes i hm hp => simp [effect_frame i s] at hne
  | writesCtrl w hl => exact ⟨w, hl⟩
  | resets hm => exact absurd hm hr
  | rests h => exact absurd h.ie hne
  | _ => simp at hne

/-- Settles O50: the cause of a change of each register, by the cases of `EngineStep`. -/
theorem writersOfEachRegister : Obligations.WritersOfEachRegister := by
  unfold Obligations.WritersOfEachRegister
  intro s t h hr
  exact ⟨(cfg_script_of_step h).1, fun hne => cause_of_dig_change hne hr h, fun hne => cause_of_acc_change hne hr h,
    fun hne => cause_of_buf_change hne hr h, fun hne => cause_of_len_change hne hr h,
    fun hne => cause_of_ie_change hne hr h⟩

end Sys2Proof.Machine
end

section
/-! PROOFS. A step is exec of the instruction it takes up (10_state.md R24, R40; 40_commands.md R111, R115). -/

namespace Sys2Proof.Machine

variable {s : State}

/-- A CMD write, busy or idle, is exec of the command its word spells. -/
theorem step_command_eq_exec {w : Word} {i : Instr} (hl : s.hostMakes (.write 0x004 4 w)) (hd : decode w = .cmd i) :
    step s = exec i s := by
  rw [step_command hl hd, exec_presents (not_runs_of_host hl.1)]

theorem decode_of_decodeTableWord {nbits w : Nat} {i : Instr} (h : decodeTableWord nbits w = some i) :
    decode (BitVec.ofNat 32 (w % 2 ^ nbits)) = .cmd i := by
  unfold decodeTableWord at h
  split at h
  · next hd => cases h; exact hd
  · cases h

/-- Settles O5: the host's CMD write, the engine's turn, and the CMD write that `withFetchWord` puts at the head of the
script. -/
theorem stepRunsDecodedCommand : Obligations.StepRunsDecodedCommand := by
  unfold Obligations.StepRunsDecodedCommand
  refine ⟨fun s w i => step_command_eq_exec, fun s i hm hp => ?_, fun s nbits w i hw => ?_⟩
  · rw [step_completes hm hp, exec_runs ⟨hm, hp⟩]
  · exact step_command_eq_exec ⟨rfl, rfl⟩ (decode_of_decodeTableWord hw)

end Sys2Proof.Machine
end

section
/-! PROOFS. The BUF window (20_memory.md R62-R64, R68, R69, R78): the bytes a write stores, the word a read returns, and
the message word that a command reads where the host has written it. -/

namespace Sys2Proof.Machine

variable {s : State}

/-! ### A word and its bytes -/

/-- Byte k of a word, as `MemWrite` takes it, is its bits [8k+7:8k] (R63). -/
theorem ofNat_div_eq_extractLsb' (v : Word) (k : Nat) :
    BitVec.ofNat 8 (v.toNat / 256 ^ k) = v.extractLsb' (8 * k) 8 := by
  apply BitVec.eq_of_toNat_eq
  simp [Nat.shiftRight_eq_div_pow, Nat.pow_mul]

/-- A word written at `a`, byte by byte (R63, R69). -/
theorem read?_writeWord (m : Memory) (a : Nat) (v : Word) (x : Nat) :
    (m.memWrite a 4 v.toNat).read? x =
      if a ≤ x ∧ x < a + 4 then some (v.extractLsb' (8 * (x - a)) 8) else m.read? x := by
  rw [Memory.read?_memWrite, ofNat_div_eq_extractLsb']

/-- The four bytes of a word, the most significant on the left, make up the word (R64). -/
theorem append_bytes (v : Word) :
    v.extractLsb' 24 8 ++ v.extractLsb' 16 8 ++ v.extractLsb' 8 8 ++ v.extractLsb' 0 8 = v := by
  have join {i n : Nat} (j : Nat) (hj : j = i + 8) :
      v.extractLsb' j n ++ v.extractLsb' i 8 = v.extractLsb' i (n + 8) :=
    BitVec.extractLsb'_append_extractLsb'_eq_extractLsb' hj
  rw [join 24 rfl, join 16 rfl, join 8 rfl]
  exact BitVec.extractLsb'_eq_self

theorem wordAt_of_bytes {bytes : Nat → Byte} {a : Nat} {v : Word}
    (h : ∀ k < 4, bytes (a + k) = v.extractLsb' (8 * k) 8) : wordAt bytes a = v := by
  have h0 : bytes a = v.extractLsb' 0 8 := h 0 (by decide)
  rw [wordAt, h 3 (by decide), h 2 (by decide), h 1 (by decide), h0]
  exact append_bytes v

/-- A word read alone (R64). -/
theorem readWord_alone (m : Memory) (n a : Nat) :
    m.readWord n a = (wordAt (byteSeen m n a) a, n + unwritten m a (a + 4)) := by
  have := readWord_eq m n (Nat.le_refl a)
  rwa [unwritten_self] at this

/-- A byte that has been written is seen as written, whatever draws come before it. -/
theorem byteSeen_of_read? {m : Memory} {x : Nat} {b : Byte} (h : m.read? x = some b) (n a : Nat) :
    byteSeen m n a x = b := by
  rw [byteSeen, h, Option.getD_some]

/-- A word just written reads back, whatever draws come before it. -/
theorem wordAt_writeWord (m : Memory) (a : Nat) (v : Word) (n b : Nat) :
    wordAt (byteSeen (m.memWrite a 4 v.toNat) n b) a = v := by
  refine wordAt_of_bytes fun k hk => byteSeen_of_read? ?_ n b
  rw [read?_writeWord, if_pos (by omega), Nat.add_sub_cancel_left]

/-- Word j of a block (R178). -/
theorem getElem?_blockAt (bytes : Nat → Byte) (a : Nat) {j : Nat} (h : j < 16) :
    (blockAt bytes a)[j]? = some (wordAt bytes (a + 4 * j)) := by
  simp [blockAt, h]

/-! ### The window -/

/-- A write of an aligned word of the window while idle (R69). -/
theorem step_writesWindow {a : Nat} {v : Word} (ha : a < s.cfg.bufBytes) (h4 : a % 4 = 0) (hb : s.busy = false)
    (hl : s.hostMakes (.write (0x1000 + a) 4 v)) :
    step s = .next ((s.setBuf (s.buf.memWrite a 4 v.toNat)).answer (.write .ok)) := by
  rw [step_write hl (selectTarget_window ha h4) (by simp) rfl, State.writeTarget, writeIdle_idle _ hb]

/-- Settles O36: dropped while busy, and while idle a word written byte by byte. -/
theorem bufferWindowWrite : Obligations.BufferWindowWrite := by
  unfold Obligations.BufferWindowWrite
  intro s a v ha h4 hl
  have hin : a < s.cfg.bufBytes := by omega
  refine ⟨fun hb => ?_, fun hb => ?_⟩
  · exact ⟨_, step_drops hl hb (selectTarget_window hin h4) rfl, sameEngine_answer _ _, rfl, rfl, rfl⟩
  · exact ⟨_, step_writesWindow hin h4 hb hl, sameEngine_answer _ _, ⟨rfl, rfl, rfl⟩, read?_writeWord s.buf a v⟩

/-- Settles O37: the offset selects the buffer word at `a`, read alone while idle and drawn while busy. -/
theorem bufferWindowRead : Obligations.BufferWindowRead := by
  unfold Obligations.BufferWindowRead
  intro s a ha h4 hl
  have h := stepAnswers_read (x := .buf a) hl (by omega) ⟨rfl, by omega⟩
  rwa [State.readTarget, readIdle_fst, readIdle_snd, readWord_alone] at h

/-- Settles O38: word j of slot n is read at 64n + 4j, where the host's word stands. -/
theorem hostWordIsMessageWord : Obligations.HostWordIsMessageWord := by
  unfold Obligations.HostWordIsMessageWord
  intro s t n j draws v hj hn hb hl h
  rw [next_unique h (step_writesWindow (by omega) (by omega) hb hl), State.answer_buf, State.setBuf_buf,
    readBlock_alone, getElem?_blockAt _ _ hj, wordAt_writeWord]

end Sys2Proof.Machine
end

section
/-! PROOFS. Which accesses the aperture admits, and what is common to every transaction (20_memory.md R60, R65-R67, R71,
R80; 10_state.md R21, R45). -/

namespace Sys2Proof.Machine

variable {s t : State}

/-! ### The bus-error cases -/

/-- The aligned offsets below 0x100 that select no register (R21). -/
theorem registerAt_eq_none {off : Nat} (hlow : off < 0x100) (h4 : off % 4 = 0) (h : registerAt off = none) :
    off = 0x01C ∨ 0x040 ≤ off := by
  have htable : ∀ k < 16, registerAt (4 * k) = none → k = 7 := by decide
  by_cases hk : off / 4 < 16
  · have := htable (off / 4) hk (by rwa [Nat.mul_div_cancel' (Nat.dvd_of_mod_eq_zero h4)])
    omega
  · omega

/-- An access that selects nothing is a bus error (R65, R66). -/
theorem badAccess_of_selectTarget_none {c : Config} {off size : Nat} (w : Bool) (h : selectTarget c off size = none) :
    badAccess c.bufBytes off size w := by
  rw [selectTarget_eq] at h
  unfold badAccess
  by_cases hsize : size = 4 ∧ off % 4 = 0
  · rw [if_pos hsize, regionAt] at h
    split_ifs at h with hreg
    · have := registerAt_eq_none hreg hsize.2 h
      omega
    · omega
    · omega
  · omega

/-- DIGEST0..DIGEST3 stand at 0x030..0x03C (R21). -/
theorem offset_of_digest {n off : Nat} {k : Lane} (h : offsetSelects n off (.digest k)) :
    0x030 ≤ off ∧ off ≤ 0x03C := by
  cases k <;> (cases h; decide)

/-- An aligned offset that selects a target stands in no hole of the map (R61). -/
theorem offset_mapped {n off : Nat} {x : Target} (h4 : off % 4 = 0) (h : offsetSelects n off x) :
    ¬ off = 0x01C ∧ ¬ (0x040 ≤ off ∧ off ≤ 0x0FF) ∧ ¬ (0x300 ≤ off ∧ off ≤ 0xFFF) ∧ ¬ 0x1000 + n ≤ off := by
  cases x with
  | acc k => have := offset_of_acc h; omega
  | digest k => have := offset_of_digest h; omega
  | _ => simp only [offsetSelects] at h; omega

/-- The offsets of the RO registers and of the two ROMs (R21, R22). -/
theorem readOnly_iff {n off : Nat} {x : Target} (h4 : off % 4 = 0) (h : offsetSelects n off x) :
    x.writable = false ↔
      off = 0x000 ∨ off = 0x014 ∨ off = 0x018 ∨ (0x030 ≤ off ∧ off ≤ 0x03F) ∨ (0x100 ≤ off ∧ off ≤ 0x2FF) := by
  cases x with
  | acc k => have := offset_of_acc h; exact iff_of_false nofun (by omega)
  | digest k => have := offset_of_digest h; exact iff_of_true rfl (by omega)
  | cmd | status | ctrl | len | buf => simp only [offsetSelects] at h; exact iff_of_false nofun (by omega)
  | id | chunks | cap | krom | srom => simp only [offsetSelects] at h; exact iff_of_true rfl (by omega)

/-- An aligned access that selects a target is a bus error only as a write of an RO target (R22, R66). -/
theorem badAccess_selected_iff {n off : Nat} {x : Target} (w : Bool) (h4 : off % 4 = 0) (h : offsetSelects n off x) :
    badAccess n off 4 w ↔ w = true ∧ x.writable = false := by
  obtain ⟨hgap, hpage, hhole, hend⟩ := offset_mapped h4 h
  simp only [badAccess, readOnly_iff h4 h, h4, hgap, hpage, hhole, hend, ne_eq, not_true_eq_false, false_or]

/-- The bus-error cases are the accesses that select nothing and the writes of RO targets (R65, R66). -/
theorem badAccess_iff (c : Config) (off size : Nat) (w : Bool) :
    badAccess c.bufBytes off size w ↔
      ∀ x, selectTarget c off size = some x → w = true ∧ x.writable = false := by
  cases hx : selectTarget c off size with
  | none => simp [badAccess_of_selectTarget_none w hx]
  | some x =>
    obtain ⟨rfl, h4, ho⟩ := selectTarget_inv hx
    simp [badAccess_selected_iff w h4 ho]

/-- A read is a bus error exactly when it selects nothing: no target is write-only (R22). -/
theorem badAccess_read_iff (c : Config) (off size : Nat) :
    badAccess c.bufBytes off size false ↔ selectTarget c off size = none := by
  simp [badAccess_iff, Option.eq_none_iff_forall_ne_some]

theorem busRead_of_none {off size : Nat} (h : selectTarget s.cfg off size = none) :
    s.busRead off size = (0x00000000#32, .err, s.draws) := by
  rw [State.busRead, h]

/-- Settles O39: a read that selects nothing, and a write that selects nothing or an RO target. -/
theorem busErrorChangesNothing : Obligations.BusErrorChangesNothing := by
  unfold Obligations.BusErrorChangesNothing
  refine ⟨fun s off size hbad hl => ?_, fun s off size w hbad hl => ?_⟩
  · have hbus := busRead_of_none ((badAccess_read_iff s.cfg off size).mp hbad)
    refine ⟨_, step_read hl, sameEngine_hostRead s off size, ?_⟩
    constructor <;> simp [State.hostRead, hbus]
  · have hro := fun x hx => ((badAccess_iff s.cfg off size true).mp hbad x hx).2
    exact ⟨_, step_write_fails hl hro, sameEngine_answer _ _, rfl, rfl, rfl⟩

/-! ### The accesses that are admitted -/

/-- A CMD write, busy or idle, of any word is answered OK (R66, R111-R114). -/
theorem answered_command {w : Word} (hl : s.hostMakes (.write 0x004 4 w)) :
    ∃ t, step s = .next t ∧ s.Answered t (.write .ok) := by
  cases hb : s.busy with
  | true => exact ⟨_, step_command_busy hl hb, rfl, rfl, rfl⟩
  | false =>
    by_cases hw : endsInItsWrite w s
    · exact ⟨_, step_commandEnds hl hb hw, rfl, rfl, rfl⟩
    · obtain ⟨i, hd, hi, hc⟩ : ∃ i, decode w = .cmd i ∧ i ≠ .nop ∧ rangeCheck i s = .none := by
        simpa [endsInItsWrite] using hw
      exact ⟨_, step_commandStarts hl hb hd hi hc, rfl, rfl, rfl⟩

theorem answered_of_stepAnswers {r : Response} {want : State} (h : s.stepAnswers r want) :
    ∃ t, step s = .next t ∧ s.Answered t r :=
  h.imp fun _ ⟨hstep, _, hans⟩ => ⟨hstep, hans⟩

/-- Settles O40: what is no bus error selects a target, for a write a writable one. -/
theorem legalAccessAnsweredOk : Obligations.LegalAccessAnsweredOk := by
  unfold Obligations.LegalAccessAnsweredOk
  refine ⟨fun s off size hlegal hl => ?_, fun s off size w hlegal hl => ?_⟩
  · rw [badAccess_read_iff] at hlegal
    obtain ⟨x, hx⟩ := Option.ne_none_iff_exists'.mp hlegal
    obtain ⟨rfl, h4, ho⟩ := selectTarget_inv hx
    obtain ⟨t, ht⟩ := answered_of_stepAnswers (stepAnswers_read hl h4 ho).1
    exact ⟨t, _, ht⟩
  · obtain ⟨x, hx, hwr⟩ : ∃ x, selectTarget s.cfg off size = some x ∧ x.writable = true := by
      simpa [badAccess_iff] using hlegal
    obtain ⟨rfl, h4, ho⟩ := selectTarget_inv hx
    by_cases hc : x = .cmd
    · subst hc
      cases ho
      exact answered_command hl
    · exact answered_of_stepAnswers (stepAnswers_write hl h4 ho hc hwr)

/-! ### Reads and polls -/

/-- Settles O41: `hostRead` and `hostPoll` leave the engine as it is, and answer with `busRead`. -/
theorem readsHaveNoSideEffect : Obligations.ReadsHaveNoSideEffect := by
  unfold Obligations.ReadsHaveNoSideEffect
  refine ⟨fun s t off size hl h => ?_, fun s t off mask val hl h => ?_⟩
  · rw [next_unique h (step_read hl)]
    exact ⟨sameEngine_hostRead s off size, rfl, rfl, rfl, rfl⟩
  · rw [next_unique h (step_poll hl)]
    refine ⟨sameEngine_hostPoll s off mask val, ?_⟩
    unfold State.hostPoll
    split_ifs
    · exact ⟨rfl, rfl, rfl, rfl⟩
    · exact ⟨rfl, rfl, rfl, rfl⟩

/-! ### The offsets of the port -/

/-- Settles O57: a step adds no transaction to the script, and the one it makes is the first of it. -/
theorem offsetsStayOnPort : Obligations.OffsetsStayOnPort := by
  unfold Obligations.OffsetsStayOnPort
  refine ⟨fun s t hs h => ⟨fun l hlt => ?_, fun l hl => hs l (List.mem_of_mem_head? hl.2)⟩, fun l hl => by cases hl⟩
  obtain ⟨hcfg, hscript⟩ := cfg_script_of_step h
  rw [hcfg]
  obtain hscript | hscript := hscript
  · exact hs l (hscript ▸ hlt)
  · exact hs l (List.mem_of_mem_tail (hscript ▸ hlt))

end Sys2Proof.Machine
end

section
/-! PROOFS. The decoder against the encoder and against the match and mask table (30_encoding.md R90-R96): a word spells
a command exactly when its three fields are that command's. -/

namespace Sys2Proof

/-! ### The fields of a command -/

/-- Well-formedness is that the BLK operand fits its field (R90). -/
theorem wellFormed_iff (i : Instr) : i.wellFormed = true ↔ blkOperand i < 65536 := by
  cases i <;> simp [Instr.wellFormed, blkOperand]

theorem opcode_le (i : Instr) : opcode i ≤ 0x05 := by cases i <;> simp [opcode]

/-- COMPRESS alone has a BLK field that is not 0 (R93). -/
theorem opcode_of_blkOperand_ne_zero {i : Instr} (h : blkOperand i ≠ 0) : opcode i = 0x04 := by
  cases i with
  | compress blk => rfl
  | _ => exact absurd rfl h

/-! ### What a word spells -/

/-- The three fields decide what a word spells: the converse of `fields_of_decode`. -/
theorem decode_of_fields {w : Word} {i : Instr} (hrsv : rsvField w = 0) (hop : opField w = opcode i)
    (hblk : blkField w = blkOperand i) : decode w = .cmd i := by
  cases i <;> simp [decode, plainCommand, hrsv, hop, hblk, opcode, blkOperand]

theorem decode_encode {i : Instr} (h : i.wellFormed = true) : decode (encode i) = .cmd i :=
  decode_of_fields (rsvField_encode i) (opField_encode i)
    ((blkField_encode i).trans (Nat.mod_eq_of_lt ((wellFormed_iff i).mp h)))

theorem wellFormed_of_decode {w : Word} {i : Instr} (h : decode w = .cmd i) : i.wellFormed = true := by
  obtain ⟨-, -, hblk⟩ := fields_of_decode h
  exact (wellFormed_iff i).mpr (hblk ▸ blkField_lt w)

theorem encode_of_decode {w : Word} {i : Instr} (h : decode w = .cmd i) : encode i = w := by
  obtain ⟨hrsv, hop, hblk⟩ := fields_of_decode h
  refine word_eq_of_fields ((opField_encode i).trans hop.symm) ((rsvField_encode i).trans hrsv.symm) ?_
  rw [blkField_encode, ← hblk, Nat.mod_eq_of_lt (blkField_lt w)]

/-! ### Matches and masks -/

/-- A row without an operand masks nothing off: its match is the one word of the command (R94). -/
theorem decode_iff_match {i : Instr} (h : i.wellFormed = true) (w : Word) :
    decode w = .cmd i ↔ w &&& 0xFFFFFFFF#32 = encode i := by
  have hmask : w &&& 0xFFFFFFFF#32 = w := BitVec.and_allOnes
  rw [hmask]
  exact ⟨fun hd => (encode_of_decode hd).symm, fun hw => hw ▸ decode_encode h⟩

/-- The row of COMPRESS looks at RSV and OP and leaves BLK open (R94). -/
theorem decode_compress_iff_match (w : Word) :
    decode w = .cmd (.compress (blkField w)) ↔ w &&& 0x0000FFFF#32 = 0x00000004#32 := by
  have hmask : (w &&& 0x0000FFFF#32).toNat = w.toNat % 65536 := by
    rw [BitVec.toNat_and]
    exact Nat.and_two_pow_sub_one_eq_mod _ 16
  have hlow : w &&& 0x0000FFFF#32 = 0x00000004#32 ↔ rsvField w = 0 ∧ opField w = 0x04 := by
    rw [← BitVec.toNat_inj, hmask, rsvField_eq, opField_eq, BitVec.toNat_ofNat]
    omega
  rw [hlow]
  refine ⟨fun hd => ?_, fun ⟨hrsv, hop⟩ => decode_of_fields hrsv hop rfl⟩
  obtain ⟨hrsv, hop, -⟩ := fields_of_decode hd
  exact ⟨hrsv, hop⟩

/-- The matches of two rows that one word satisfies agree where both masks look. -/
theorem matches_agree {w m n a b : Word} (ha : w &&& m = a) (hb : w &&& n = b) : a &&& n = b &&& m := by
  rw [← ha, ← hb, BitVec.and_assoc, BitVec.and_assoc, BitVec.and_comm m n]

/-! ### The obligations -/

/-- Settles O1: the fields of the encoded word are the command's, BLK because the operand fits its field. -/
theorem decodeOfEncode : Obligations.DecodeOfEncode := fun _ => decode_encode

/-- Settles O2: a word is its three fields, and decoding leaves none of them open. -/
theorem encodeOfDecode : Obligations.EncodeOfDecode := fun _ _ h => ⟨wellFormed_of_decode h, encode_of_decode h⟩

/-- Settles O3: five rows hold one word each, the row of COMPRESS leaves BLK open, and any two matches differ where both
masks look. -/
theorem decodeByMatchAndMask : Obligations.DecodeByMatchAndMask := by
  unfold Obligations.DecodeByMatchAndMask
  refine ⟨fun w => ⟨decode_iff_match (i := .nop) rfl w, decode_iff_match (i := .digest) rfl w,
    decode_iff_match (i := .pad) rfl w, decode_iff_match (i := .init) rfl w, decode_compress_iff_match w,
    decode_iff_match (i := .final) rfl w⟩, fun w => ?_⟩
  exact List.Pairwise.imp (R := fun p q : Word × Word => p.1 &&& q.2 ≠ q.1 &&& p.2)
    (fun hne ⟨hp, hq⟩ => hne (matches_agree hp hq)) (by decide)

/-- Settles O4: the spelled words are the encodings of their commands, and the others are decoded. -/
theorem spelledWordsDecode : Obligations.SpelledWordsDecode :=
  ⟨decode_encode (i := .digest) rfl, decode_encode (i := .final) rfl, decode_encode (i := .compress 63) rfl,
    decode_encode (i := .compress 65535) rfl, by decide, by decide, by decide⟩

end Sys2Proof
end

section
/-! PROOFS. The words that spell no command are rejected with ERR = BADCMD and nothing else (30_encoding.md R91, R93,
R96; 40_commands.md R113). -/

namespace Sys2Proof.Machine

variable {s : State}

/-- A CMD write, while idle, of a word that spells no command changes ERR and DONE alone (R113). -/
theorem stepAnswers_badcmd {w : Word} (hl : s.hostMakes (.write 0x004 4 w)) (hb : s.busy = false)
    (h : ∀ i, decode w ≠ .cmd i) : s.stepAnswers (.write .ok) { s with err := .badcmd, done := true } := by
  cases hd : decode w with
  | cmd i => exact absurd hd (h i)
  | badcmd why => exact ⟨_, step_command_bad hl hb hd, sameEngine_answer _ _, rfl, rfl, rfl⟩

/-- Settles O9: every command has RSV = 0, and one with BLK not 0 is COMPRESS. -/
theorem reservedFieldRejected : Obligations.ReservedFieldRejected := by
  unfold Obligations.ReservedFieldRejected
  intro s w hl hb hbad
  refine stepAnswers_badcmd hl hb fun i hd => ?_
  obtain ⟨hrsv, hop, hblk⟩ := fields_of_decode hd
  obtain hne | ⟨hne, hop4⟩ := hbad
  · exact hne (BitVec.eq_of_toNat_eq hrsv)
  · have hne0 : blkOperand i ≠ 0 := fun h0 => hne (BitVec.eq_of_toNat_eq (hblk.trans h0))
    exact hop4 (BitVec.eq_of_toNat_eq (hop.trans (opcode_of_blkOperand_ne_zero hne0)))

/-- Settles O10: no command has an OP above 0x05. -/
theorem reservedOpcodeRejected : Obligations.ReservedOpcodeRejected := by
  unfold Obligations.ReservedOpcodeRejected
  intro s w hl hb hop6
  refine stepAnswers_badcmd hl hb fun i hd => ?_
  obtain ⟨-, hop, -⟩ := fields_of_decode hd
  have hop5 : opField w ≤ 0x05 := hop ▸ opcode_le i
  exact absurd (hop6.trans hop5) (by decide)

end Sys2Proof.Machine
end

section
/-! PROOFS. How a CMD write ends: dropped, rejected, accepted, or done at once for NOP (40_commands.md R110-R114, R118). -/

namespace Sys2Proof.Machine

variable {s : State}

/-! ### A CMD write that ends in its own write -/

/-- Settles O7: a CMD write while busy raises OVR and is answered OK, whatever its word. -/
theorem commandDroppedWhileBusy : Obligations.CommandDroppedWhileBusy := by
  unfold Obligations.CommandDroppedWhileBusy
  intro s w hl hb
  exact ⟨_, step_command_busy hl hb, sameEngine_answer _ _, rfl, rfl, rfl⟩

/-- A word that leaves an error code starts no command (R113). -/
theorem endsInItsWrite_of_error {w : Word} (h : errOfWord w s ≠ .none) : endsInItsWrite w s :=
  fun _ hd => .inr (errOfWord_cmd s hd ▸ h)

/-- With DONE set, `irq` is IE (R39, R223). -/
theorem irq_of_done {t : State} (hd : t.done = true) (hie : t.ie = s.ie) : t.irq = s.ie := by
  rw [State.irq, hd, hie, Bool.true_and]

/-- Settles O8: in each of the three cases the word leaves the case's code, so it ends in its own write. -/
theorem rejectionIsPrecise : Obligations.RejectionIsPrecise := by
  unfold Obligations.RejectionIsPrecise
  intro s w code hl hb hcase
  have hcode : errOfWord w s = code ∧ code ≠ .none := by
    obtain ⟨⟨why, hd⟩, rfl⟩ | ⟨hd | hd, hlen, rfl⟩ | ⟨⟨blk, hd, hslot⟩, rfl⟩ := hcase
    · exact ⟨errOfWord_badcmd s hd, by decide⟩
    · exact ⟨(errOfWord_cmd s hd).trans (if_pos hlen), by decide⟩
    · exact ⟨(errOfWord_cmd s hd).trans (if_pos hlen), by decide⟩
    · exact ⟨(errOfWord_cmd s hd).trans (if_pos hslot), by decide⟩
  obtain ⟨rfl, herr⟩ := hcode
  have hstep := step_commandEnds hl hb (endsInItsWrite_of_error herr)
  refine ⟨⟨_, hstep, sameEngine_answer _ _, rfl, rfl, rfl⟩, fun t ht => ?_⟩
  rw [next_unique ht hstep]
  exact irq_of_done rfl rfl

/-! ### The presentation of a command on the host's turn -/

theorem exec_accepts {i : Instr} (hm : s.mover = .host) (hb : s.busy = false) (hc : rangeCheck i s = .none) :
    exec i s = .next ((s.accept i).answer (.write .ok)) := by
  rw [exec_presents (not_runs_of_host hm), hc, present_accept hb]

theorem exec_starts {i : Instr} (hm : s.mover = .host) (hb : s.busy = false) (hi : i ≠ .nop)
    (hc : rangeCheck i s = .none) :
    exec i s = .next (State.answer (.write .ok) { s with err := .none, done := false, pend := some i, busy := true }) := by
  rw [exec_accepts hm hb hc, s.accept_of_ne i hi]

theorem exec_drops (i : Instr) (hm : s.mover = .host) (hb : s.busy = true) :
    exec i s = .next (s.raiseOvr.answer (.write .ok)) := by
  rw [exec_presents (not_runs_of_host hm), present_busy hb]

/-- The range checks as R133 and R180 print them; the other commands have none. -/
theorem rangeCheck_eq_none {i : Instr} (hlen : i = .pad ∨ i = .digest → 64 * chunkCount s.len.toNat ≤ s.cfg.bufBytes)
    (hslot : ∀ blk, i = .compress blk → 64 * (blk + 1) ≤ s.cfg.bufBytes) : rangeCheck i s = .none := by
  cases i with
  | pad => exact if_neg (Nat.not_lt.mpr (hlen (.inl rfl)))
  | digest => exact if_neg (Nat.not_lt.mpr (hlen (.inr rfl)))
  | compress blk => exact if_neg (Nat.not_lt.mpr (hslot blk rfl))
  | nop | init | final => rfl

/-- Settles O11: the command passes its range check, and so its acceptance starts it. -/
theorem acceptanceStartsTheCommand : Obligations.AcceptanceStartsTheCommand := by
  unfold Obligations.AcceptanceStartsTheCommand
  intro s i hm hb hi hlen hslot
  exact ⟨_, exec_starts hm hb hi (rangeCheck_eq_none hlen hslot), sameEngine_answer _ _, rfl, rfl, rfl⟩

/-! ### NOP -/

/-- NOP alone has OP = 0x00 (R91). -/
theorem eq_nop_of_opcode {i : Instr} (h : opcode i = 0x00) : i = .nop := by
  cases i with
  | nop => rfl
  | _ => cases h

/-- A word with OP = 0x00 that spells a command is the word of NOP (R118). -/
theorem eq_encode_nop {w : Word} {i : Instr} (hop : w.extractLsb' 0 8 = 0x00#8) (hd : decode w = .cmd i) :
    w = encode .nop := by
  obtain ⟨-, hopcode, -⟩ := fields_of_decode hd
  rw [← encode_of_decode hd, eq_nop_of_opcode (hopcode.symm.trans (congrArg BitVec.toNat hop))]

/-- Settles O12: NOP is accepted and done in its write, or dropped while busy, and no other word with its OP spells a
command. -/
theorem nopCompletesInItsWrite : Obligations.NopCompletesInItsWrite := by
  unfold Obligations.NopCompletesInItsWrite
  refine ⟨fun s hm hb => ?_, fun s t hm hb h => ?_, fun s hm hb => ?_, by decide, fun w hop hne => ?_⟩
  · exact ⟨_, exec_accepts hm hb rfl, sameEngine_answer _ _, rfl, rfl, rfl⟩
  · rw [exec_accepts hm hb rfl] at h
    cases h
    exact irq_of_done rfl rfl
  · exact ⟨_, exec_drops .nop hm hb, sameEngine_answer _ _, rfl, rfl, rfl⟩
  · cases hd : decode w with
    | badcmd why => exact ⟨why, rfl⟩
    | cmd i => exact absurd ((eq_encode_nop hop hd).trans (by decide)) hne

end Sys2Proof.Machine
end

section
/-! PROOFS. A command while it runs: no host transaction disturbs it, its result does not depend on what the host does in
the meantime, and it ends (40_commands.md R114-R117; 10_state.md R43; 20_memory.md R78; 70_reset_and_hazards.md R255). -/

namespace Sys2Proof.Machine

variable {s t : State}

/-! ### The host while a command runs -/

/-- Settles O51: while busy a host step leaves the engine as it is, is dropped, or writes STATUS or CTRL; the STATUS write
can only clear DONE. -/
theorem hostCannotDisturbCommand : Obligations.HostCannotDisturbCommand := by
  unfold Obligations.HostCannotDisturbCommand
  intro s t hb hm h
  cases engineStep_of_step h with
  | rests e => exact ⟨e.buf, e.acc, e.dig, e.len, e.pend, e.busy.trans hb, e.err, e.cfg, fun hd => e.done ▸ hd⟩
  | drops off v x hl _ hx hd => exact ⟨rfl, rfl, rfl, rfl, rfl, hb, rfl, rfl, id⟩
  | writesStatus v hl => exact ⟨rfl, rfl, rfl, rfl, rfl, hb, rfl, rfl, fun hd => (Bool.and_eq_true_iff.mp hd).1⟩
  | writesCtrl v hl => exact ⟨rfl, rfl, rfl, rfl, rfl, hb, rfl, rfl, id⟩
  | completes _ hm' | resets hm' => exact absurd (hm.symm.trans hm') (by decide)
  | commandEnds _ _ hb' | commandStarts _ _ _ hb' | writesLen _ _ hb' | writesAcc _ _ _ _ hb' | writesBuf _ _ _ hb' =>
    exact absurd (hb.symm.trans hb') (by decide)

/-! ### Effects and the draw counter -/

/-- A byte that has been written is seen alike by every read. -/
theorem byteSeen_congr {m : Memory} {x : Nat} (h : m.read? x ≠ none) (n n' a a' : Nat) :
    byteSeen m n a x = byteSeen m n' a' x := by
  obtain ⟨b, hb⟩ := Option.ne_none_iff_exists'.mp h
  rw [byteSeen_of_read? hb, byteSeen_of_read? hb]

/-- The words of a slot whose bytes have been written do not depend on the draws made before (R78, R178). -/
theorem readBlock_draws_congr {m : Memory} {slot : Nat}
    (h : ∀ x, 64 * slot ≤ x → x < 64 * slot + 64 → m.read? x ≠ none) (n n' : Nat) :
    (m.readBlock n slot).1 = (m.readBlock n' slot).1 := by
  rw [readBlock_alone, readBlock_alone]
  exact blockAt_congr fun x hlo hhi => byteSeen_congr (h x hlo hhi) ..

/-- COMPRESS of a slot that is written reads BUF and ACC alone. -/
theorem compressEffect_acc_congr {blk : Nat} (hbuf : t.buf = s.buf) (hacc : t.acc = s.acc)
    (h : ∀ x, 64 * blk ≤ x → x < 64 * blk + 64 → s.buf.read? x ≠ none) :
    (compressEffect blk t).acc = (compressEffect blk s).acc := by
  rw [compressEffect_acc, compressEffect_acc, hbuf, hacc, readBlock_draws_congr h t.draws s.draws]

/-- The block loop over slots that are written reads BUF and ACC alone (R205). -/
theorem compressSlots_acc_congr {n : Nat} (hbuf : t.buf = s.buf) (hacc : t.acc = s.acc)
    (h : ∀ x < 64 * n, s.buf.read? x ≠ none) : (compressSlots n t).acc = (compressSlots n s).acc := by
  induction n with
  | zero => exact hacc
  | succ n ih =>
    have hbefore := ih fun x hx => h x (by omega)
    refine compressEffect_acc_congr (by simp [hbuf]) hbefore fun x _ hx => ?_
    rw [compressSlots_buf]
    exact h x (by omega)

/-- After the padding of a message that is written, every byte of its blocks is written (R134). -/
theorem padMessage_written {m : Memory} {l : Nat} (h : ∀ x < l, m.read? x ≠ none) :
    ∀ x < 64 * chunkCount l, (m.padMessage l).read? x ≠ none := by
  intro x hx
  rw [read?_padMessage_cases]
  split_ifs with hout
  · exact h x (by omega)
  all_goals simp

/-- DIGEST of a message that is written reads BUF and LEN alone (R202). -/
theorem digestEffect_acc_congr (hbuf : t.buf = s.buf) (hlen : t.len = s.len)
    (h : ∀ x < s.len.toNat, s.buf.read? x ≠ none) : (digestEffect t).acc = (digestEffect s).acc := by
  simp only [digestEffect, finalEffect_acc, hlen]
  refine compressSlots_acc_congr (by simp [hbuf, hlen]) (by simp) ?_
  simpa using padMessage_written h

theorem digestEffect_dig (s : State) : (digestEffect s).dig = (digestEffect s).acc := by
  simp [digestEffect]

section
variable {i : Instr} (hbuf : t.buf = s.buf) (hacc : t.acc = s.acc) (hdig : t.dig = s.dig) (hlen : t.len = s.len)
  (hin : ∀ x, inputByte i s x → s.buf.read? x ≠ none)

include hbuf hlen in
theorem effect_buf_congr (i : Instr) : (effect i t).buf = (effect i s).buf := by
  rw [effect_buf, effect_buf, hbuf, hlen]

include hbuf hacc hlen hin in
/-- The accumulators a command leaves do not depend on the draws made before it, where the bytes it takes are written. -/
theorem effect_acc_congr : (effect i t).acc = (effect i s).acc := by
  cases i with
  | digest => exact digestEffect_acc_congr hbuf hlen hin
  | compress blk => exact compressEffect_acc_congr hbuf hacc fun x hlo hhi => hin x ⟨hlo, hhi⟩
  | nop | pad | init | final => simp [effect, hacc]

include hbuf hacc hdig hlen hin in
theorem effect_dig_congr : (effect i t).dig = (effect i s).dig := by
  cases i with
  | digest =>
    simp only [effect, digestEffect_dig]
    exact digestEffect_acc_congr hbuf hlen hin
  | nop | pad | init | compress | final => simp [effect, hacc, hdig]

end

/-- Which bytes a command takes depends on LEN alone. -/
theorem inputByte_congr (i : Instr) (hlen : t.len = s.len) (x : Nat) : inputByte i t x ↔ inputByte i s x := by
  cases i <;> simp [inputByte, hlen]

/-- Settles O52, by induction on the host turns: each leaves the registers of the command's effect as they are, and the
effect does not depend on the draws that the host's reads make. -/
theorem completionUnaffectedByHost : Obligations.CompletionUnaffectedByHost := by
  unfold Obligations.CompletionUnaffectedByHost
  intro s i k rest hs hp hturns hin
  induction k generalizing s with
  | zero =>
    have hstep := step_completes (mover_cons hturns) hp
    exact ⟨_, run_succ 0 hstep, rfl, rfl, rfl, rfl, rfl, rfl, (effect_frame i s).1⟩
  | succ k ih =>
    obtain ⟨u, hstep, -⟩ := step_stepTo s
    have hb : s.busy = true := hs.busy_iff_pend.mpr (by simp [hp])
    obtain ⟨hbuf, hacc, hdig, hlen, hpend, -⟩ := hostCannotDisturbCommand s u hb (mover_cons hturns) hstep
    have hturns' : u.turns = List.replicate k .host ++ .engine :: rest := by rw [turns_of_step hstep, hturns]; rfl
    have hin' : ∀ x, inputByte i u x → u.buf.read? x ≠ none := fun x hx => by
      rw [hbuf]
      exact hin x ((inputByte_congr i hlen x).mp hx)
    obtain ⟨t, hrun, hbusy, hdone, hnone, htbuf, htacc, htdig, htlen⟩ :=
      ih u (stepKeepsInvariant s u hs hstep) (hpend.trans hp) hturns' hin'
    exact ⟨t, (run_succ _ hstep).trans hrun, hbusy, hdone, hnone, htbuf.trans (effect_buf_congr hbuf hlen i),
      htacc.trans (effect_acc_congr hbuf hacc hlen hin), htdig.trans (effect_dig_congr hbuf hacc hdig hlen hin),
      htlen.trans hlen⟩

/-! ### The end of a running command -/

/-- With no turn listed the running command completes (Assumption 3). -/
theorem step_ends_of_no_turns (hs : s.Inv) (hb : s.busy = true) (hturns : s.turns = []) :
    ∃ t, step s = .next t ∧ t.busy = false := by
  obtain ⟨i, hp⟩ := Option.ne_none_iff_exists'.mp (hs.busy_iff_pend.mp hb)
  have hm : s.mover = .engine := by rw [mover_nil hturns, if_pos hb]
  exact ⟨_, step_completes hm hp, rfl⟩

/-- Settles O53, by induction on the turns listed: each step takes one of them, and the step after the last is the
completion. -/
theorem runningCommandEnds : Obligations.RunningCommandEnds := by
  unfold Obligations.RunningCommandEnds
  intro s hs
  induction hturns : s.turns generalizing s with
  | nil =>
    cases hb : s.busy with
    | false => exact ⟨0, Nat.zero_le _, s, rfl, hb⟩
    | true =>
      obtain ⟨t, hstep, ht⟩ := step_ends_of_no_turns hs hb hturns
      exact ⟨1, Nat.le_refl _, t, run_succ 0 hstep, ht⟩
  | cons x xs ih =>
    obtain ⟨u, hstep, -⟩ := step_stepTo s
    have hxs : u.turns = xs := by rw [turns_of_step hstep, hturns, List.tail_cons]
    obtain ⟨k, hk, t, hrun, ht⟩ := ih u (stepKeepsInvariant s u hs hstep) hxs
    exact ⟨k + 1, Nat.succ_le_succ hk, t, (run_succ k hstep).trans hrun, ht⟩

end Sys2Proof.Machine
end

section
/-! PROOFS. The padding of a message: its length, the range check on it, and what PAD writes (41_padding.md R130-R138). -/

namespace Sys2Proof.Machine

variable {s t : State}

/-! ### The padded length (R130, R131) -/

/-- The padded message fits in n blocks exactly when the message, the marker and the length field do. -/
theorem chunkCount_le_iff (l n : Nat) : chunkCount l ≤ n ↔ l + 9 ≤ 64 * n := by
  unfold chunkCount ceilDiv
  omega

/-- The number of blocks is the least that holds the message, the marker and the length field. -/
theorem chunkCount_eq_iff (l k : Nat) : chunkCount l = k ↔ 64 * k < l + 73 ∧ l + 9 ≤ 64 * k := by
  unfold chunkCount ceilDiv
  omega

theorem chunkCount_bounds (l : Nat) : 64 * chunkCount l < l + 73 ∧ l + 9 ≤ 64 * chunkCount l :=
  (chunkCount_eq_iff l _).mp rfl

/-- Settles O15: every clause is `chunkCount_eq_iff` at the k of the clause. -/
theorem paddedLengthBounds : Obligations.PaddedLengthBounds := by
  unfold Obligations.PaddedLengthBounds
  refine ⟨fun l => ?_, fun l k => ⟨?_, fun hk => ?_⟩, fun l => ⟨?_, ?_⟩⟩
  · obtain ⟨hlt, hle⟩ := chunkCount_bounds l
    exact ⟨Nat.mul_mod_right 64 _, hle, by omega, by omega, by omega⟩
  all_goals
    rw [chunkCount_eq_iff]
    omega

/-! ### The range check of PAD and DIGEST (R133) -/

/-- BUF_BYTES is a multiple of 64, so the padded message fits exactly when the message and nine bytes do. -/
theorem chunkCount_fits_iff (c : Config) (l : Nat) : 64 * chunkCount l ≤ c.bufBytes ↔ l ≤ c.bufBytes - 9 := by
  have hslots : 64 * chunkCount l ≤ c.bufBytes ↔ chunkCount l ≤ c.lastSlot.val + 1 := by
    unfold Config.bufBytes
    omega
  rw [hslots, chunkCount_le_iff]
  unfold Config.bufBytes
  omega

/-- A command presented on the host's turn, while idle, that fails its range check changes ERR and DONE alone (R113). -/
theorem execAnswers_rejected {i : Instr} (hm : s.mover = .host) (hb : s.busy = false) (hc : rangeCheck i s ≠ .none) :
    s.execAnswers i { s with err := rangeCheck i s, done := true } := by
  have hexec : exec i s = .next ((s.reject (rangeCheck i s)).answer (.write .ok)) := by
    rw [exec_presents (not_runs_of_host hm), present_reject hb hc]
  exact ⟨_, hexec, sameEngine_answer _ _, rfl, rfl, rfl⟩

/-- Settles O13: the check that fails is `lenCheck`; no buffer has the 4 GiB of the last clause. -/
theorem lengthCheckRejects : Obligations.LengthCheckRejects := by
  unfold Obligations.LengthCheckRejects
  refine ⟨fun s i hi hm hb hlen => ?_, chunkCount_fits_iff, fun c => ?_⟩
  · have hcheck : rangeCheck i s = .len := by obtain rfl | rfl := hi <;> exact if_pos hlen
    simpa [hcheck] using execAnswers_rejected (i := i) hm hb (by simp [hcheck])
  · obtain ⟨-, hmax, -⟩ := bufBytes_bounds c
    refine Nat.lt_of_not_le (mt (chunkCount_fits_iff c _).mp ?_)
    omega

/-! ### The bytes PAD writes (R134, R136) -/

/-- A completion answers no transaction (R115). -/
theorem hostRests_completes (i : Instr) (s : State) : s.HostRests (effect i s).finish.passTurn := by
  obtain ⟨-, -, -, -, -, -, -, -, hscript, hturns, hresp⟩ := effect_frame i s
  constructor <;> simp [hscript, hturns, hresp]

/-- Settles O16: PAD completes with `padEffect`, whose bytes are those of `Memory.padMessage`. -/
theorem padWritesThePadding : Obligations.PadWritesThePadding := by
  unfold Obligations.PadWritesThePadding
  intro s hm hp
  refine ⟨_, exec_runs ⟨hm, hp⟩, ?_, padEffect_draws s, hostRests_completes .pad s, fun x => ?_⟩
  · constructor <;> simp [effect]
  · rw [← read?_padMessage_cases]
    simp [effect]

/-! ### Padding twice (R138) -/

theorem read?_padMessage_outside (m : Memory) {l x : Nat} (h : x < l ∨ 64 * chunkCount l ≤ x) :
    (m.padMessage l).read? x = m.read? x := by
  rw [read?_padMessage_cases, if_pos h]

/-- Inside the padding the bytes do not depend on what the buffer held, outside it they are as before; and in the
canonical form equal bytes are equal buffers. -/
theorem padMessage_padMessage {m : Memory} (h : m.wf = true) (l : Nat) :
    (m.padMessage l).padMessage l = m.padMessage l := by
  have hwf := m.wf_padMessage l h
  refine Memory.eq_of_wf (Memory.wf_padMessage _ l hwf) hwf fun x => ?_
  by_cases hx : x < l ∨ 64 * chunkCount l ≤ x
  · exact read?_padMessage_outside _ hx
  · rw [read?_padMessage_cases, read?_padMessage_cases, if_neg hx, if_neg hx]

theorem buf_of_exec_pad (hm : s.mover = .engine) (hp : s.pend = some .pad) (h : exec .pad s = .next t) :
    t.buf = s.buf.padMessage s.len.toNat := by
  rw [exec_runs ⟨hm, hp⟩] at h
  cases h
  exact padEffect_buf s

/-- Settles O17: the buffer after both is `Memory.padMessage` applied twice. -/
theorem padTwice : Obligations.PadTwice := by
  unfold Obligations.PadTwice
  intro s t u v hs hm hp ht hu
  have htbuf : t.buf = s.buf.padMessage s.len.toNat := buf_of_exec_pad hm hp ht
  have hubuf : u.buf = t.buf.padMessage v.toNat := buf_of_exec_pad (mover_cons rfl) rfl hu
  refine ⟨fun hv => ?_, fun x hx => ?_⟩
  · rw [hubuf, htbuf, hv, padMessage_padMessage hs.bufCanonical]
  · rw [hubuf, read?_padMessage_outside _ hx]

end Sys2Proof.Machine
end

section
/-! PROOFS. The state accumulator: INIT, FINAL, the byte order of the digest and the chaining of COMPRESS
(42_accumulator.md R150-R155). -/

namespace Sys2Proof.Machine

variable {s t : State}

/-! ### INIT and FINAL -/

/-- A completion is the command's effect and the end of the command, and answers no transaction (R115). -/
theorem execCompletes_effect {i : Instr} (h : s.runs i) : s.execCompletes i (effect i s).finish :=
  ⟨_, exec_runs h, sameEngine_passTurn _, hostRests_completes i s⟩

/-- Settles O18: the effect of INIT is to load `iv`. -/
theorem initLoadsTheIv : Obligations.InitLoadsTheIv := by
  unfold Obligations.InitLoadsTheIv
  intro s hm hp
  have h : s.execCompletes .init (s.setAcc iv).finish := execCompletes_effect ⟨hm, hp⟩
  rwa [State.finish, State.setAcc, iv] at h

/-- Settles O19: the effect of FINAL is to copy ACC to DIG. -/
theorem finalCopiesAccToDig : Obligations.FinalCopiesAccToDig := by
  unfold Obligations.FinalCopiesAccToDig
  intro s hm hp
  have h : s.execCompletes .final (s.setDig s.acc).finish := execCompletes_effect ⟨hm, hp⟩
  rwa [State.finish, State.setDig] at h

/-! ### The bytes of a digest -/

/-- In the little-endian bytes of a list of words, byte j is byte j mod 4 of word j div 4. -/
theorem getElem?_flatMap_leBytes (ws : List Word) (j : Nat) :
    (ws.flatMap fun w => leBytes 4 w.toNat)[j]? = ws[j / 4]?.map fun w => w.extractLsb' (8 * (j % 4)) 8 := by
  induction ws generalizing j with
  | nil => rfl
  | cons w ws ih =>
    rw [List.flatMap_cons]
    by_cases hj : j < 4
    · rw [List.getElem?_append_left (by simpa using hj), Memory.getElem?_leBytes _ _ _ hj, ofNat_div_eq_extractLsb',
        Nat.div_eq_of_lt hj, Nat.mod_eq_of_lt hj, List.getElem?_cons_zero, Option.map_some]
    · obtain ⟨k, rfl⟩ := Nat.exists_eq_add_of_le' (Nat.le_of_not_lt hj)
      rw [List.getElem?_append_right (by simp), Memory.length_leBytes, Nat.add_sub_cancel, ih,
        Nat.add_div_right _ (by decide), Nat.add_mod_right, List.getElem?_cons_succ]

theorem digestBytes_eq_flatMap (q : Quad) :
    digestBytes q = [q.a, q.b, q.c, q.d].flatMap fun w => leBytes 4 w.toNat := by
  simp [digestBytes]

/-- Settles O29: the digest's bytes are those of its four words. -/
theorem digestByteOrder : Obligations.DigestByteOrder := by
  unfold Obligations.DigestByteOrder
  intro q
  refine ⟨by simp [digestBytes], fun j _ => ?_⟩
  rw [digestBytes_eq_flatMap, getElem?_flatMap_leBytes]

/-! ### Chaining (R153) -/

/-- Two blocks with the same 64 bytes are the same words, wherever each block starts: `blockAt_congr` for two places. -/
theorem blockAt_eq_of_bytes {f g : Nat → Byte} {a b : Nat} (h : ∀ j < 64, f (a + j) = g (b + j)) :
    blockAt f a = blockAt g b := by
  have moved (bytes : Nat → Byte) (c : Nat) : blockAt bytes c = blockAt (fun x => bytes (c + x)) 0 := by
    simp only [blockAt, wordAt, Nat.zero_add, Nat.add_assoc]
  rw [moved f, moved g]
  exact blockAt_congr fun x _ hx => h x (by omega)

/-- The accumulators after COMPRESS, from the bytes of its slot (R178, R179). -/
theorem acc_of_exec_compress {blk : Nat} (hm : s.mover = .engine) (hp : s.pend = some (.compress blk))
    (h : exec (.compress blk) s = .next t) :
    t.acc = compressBlock s.acc (blockAt (byteSeen s.buf s.draws (64 * blk)) (64 * blk)) := by
  rw [exec_runs ⟨hm, hp⟩] at h
  cases h
  rw [State.passTurn_acc, State.finish_acc, effect, compressEffect_acc, readBlock_alone]

/-- Settles O28: written bytes are seen alike in both slots, so the two blocks are the same words. -/
theorem compressDependsOnAccAndSlotOnly : Obligations.CompressDependsOnAccAndSlotOnly := by
  unfold Obligations.CompressDependsOnAccAndSlotOnly
  intro s s' t t' blk blk' hm hp hm' hp' hacc hbytes h h'
  rw [acc_of_exec_compress hm hp h, acc_of_exec_compress hm' hp' h', hacc]
  refine congrArg _ (blockAt_eq_of_bytes fun j hj => ?_)
  obtain ⟨b, hb, hb'⟩ := hbytes j hj
  rw [byteSeen_of_read? hb, byteSeen_of_read? hb']

end Sys2Proof.Machine
end

section
/-! PROOFS. The compression of one block: the tables, the round functions, the 64 rounds, and COMPRESS of a slot that
exists and of one that does not (43_compression.md R170-R180). -/

namespace Sys2Proof.Machine

/-! ### The tables and the message index (R170, R171, R174) -/

/-- The index is that of one of the sixteen message words (R174). -/
theorem msgIndex_lt (i : Nat) : msgIndex i < 16 := by
  unfold msgIndex
  split_ifs <;> omega

theorem msgIndex_of_lt_16 {i : Nat} (h : i < 16) : msgIndex i = i := if_pos h

theorem msgIndex_of_lt_32 {i : Nat} (hlo : 16 ≤ i) (hhi : i < 32) : msgIndex i = (5 * i + 1) % 16 := by
  rw [msgIndex, if_neg (by omega), if_pos hhi]

theorem msgIndex_of_lt_48 {i : Nat} (hlo : 32 ≤ i) (hhi : i < 48) : msgIndex i = (3 * i + 5) % 16 := by
  rw [msgIndex, if_neg (by omega), if_neg (by omega), if_pos hhi]

theorem msgIndex_of_le {i : Nat} (hlo : 48 ≤ i) : msgIndex i = (7 * i) % 16 := by
  rw [msgIndex, if_neg (by omega), if_neg (by omega), if_neg (by omega)]

/-- Settles O55: the tables are compared entry by entry, the index by its four ranges. -/
theorem tablesOfTheManual : Obligations.TablesOfTheManual := by
  unfold Obligations.TablesOfTheManual
  refine ⟨by decide, by decide, by decide, by decide, by decide, by decide, by decide, by decide, fun i _ => ?_⟩
  exact ⟨msgIndex_lt i, msgIndex_of_lt_16, msgIndex_of_lt_32, msgIndex_of_lt_48, msgIndex_of_le⟩

/-! ### The round functions (R172, R173) -/

/-- The function of rounds 0..31, bit by bit: `x` chooses between `y` and `z`. -/
theorem getLsbD_choose (x y z : Word) {k : Nat} (hk : k < 32) :
    ((x &&& y) ||| (~~~x &&& z)).getLsbD k = if x.getLsbD k then y.getLsbD k else z.getLsbD k := by
  rw [BitVec.getLsbD_or, BitVec.getLsbD_and, BitVec.getLsbD_and, BitVec.getLsbD_not, decide_eq_true hk]
  cases x.getLsbD k <;> simp

/-- Settles O22: the first two groups are one choice with its operands in another order. -/
theorem roundFunctionsBitwise : Obligations.RoundFunctionsBitwise := by
  unfold Obligations.RoundFunctionsBitwise
  intro i b c d k _ hk
  rw [roundF]
  by_cases h16 : i < 16
  · rw [if_pos h16, if_pos h16, getLsbD_choose b c d hk]
  rw [if_neg h16, if_neg h16]
  by_cases h32 : i < 32
  · rw [if_pos h32, if_pos h32, getLsbD_choose d b c hk]
  rw [if_neg h32, if_neg h32]
  by_cases h48 : i < 48
  · rw [if_pos h48, if_pos h48, BitVec.getLsbD_xor, BitVec.getLsbD_xor]
  · rw [if_neg h48, if_neg h48]
    simp [hk]

/-! ### The 64 rounds (R175-R177) -/

theorem compressBlock_eq (acc : Quad) (m : List Word) :
    compressBlock acc m = accumulate acc (roundsDone m acc 64) := by
  rw [compressBlock]

/-- Registers whose four words are those that R175 gives for round i are the registers after that round. -/
theorem eq_roundStep {i : Nat} (hi : i < 64) {m : List Word} {q q' : Quad} (ha : q'.a = q.d)
    (hb : q'.b = q.b + (roundSum i q m).rotateLeft (sAmount i)) (hc : q'.c = q.b) (hd : q'.d = q.c) :
    q' = roundStep i q m := by
  rw [roundStep, rotl32_eq_rotateLeft _ hi, ← hb, ← ha, ← hc, ← hd]

/-- A sequence of registers that every round below n takes one step further is `roundsDone` up to n. -/
theorem eq_roundsDone {m : List Word} {w : Nat → Quad} {n : Nat} (h : ∀ i < n, w (i + 1) = roundStep i (w i) m) :
    w n = roundsDone m (w 0) n := by
  induction n with
  | zero => rfl
  | succ n ih => rw [h n (Nat.lt_succ_self n), ih fun i hi => h i (Nat.lt_succ_of_lt hi), roundsDone]

/-- Settles O21: R175 leaves no choice in any round, so the sequence is `roundsDone`. -/
theorem compressBlockIsSixtyFourRounds : Obligations.CompressBlockIsSixtyFourRounds := by
  unfold Obligations.CompressBlockIsSixtyFourRounds
  intro acc m w hw h
  have hsteps : ∀ i < 64, w (i + 1) = roundStep i (w i) m := fun i hi => by
    obtain ⟨ha, hc, hd, hb⟩ := h i hi
    exact eq_roundStep hi ha hb hc hd
  rw [compressBlock_eq, ← hw, ← eq_roundsDone hsteps, accumulate]

/-! ### COMPRESS (R178-R180) -/

/-- Settles O20: COMPRESS completes with `compressEffect`, which reads its slot alone. -/
theorem compressAccumulatesOneBlock : Obligations.CompressAccumulatesOneBlock := by
  unfold Obligations.CompressAccumulatesOneBlock
  intro s blk hm hp
  refine ⟨_, exec_runs ⟨hm, hp⟩, ?_, hostRests_completes (.compress blk) s, ?_⟩
  · constructor <;> simp [effect, readBlock_alone]
  · simp [effect, readBlock_alone]

/-- BUF_BYTES is a multiple of 64, so a slot is beyond the buffer exactly when its number is NBLK or more. -/
theorem slot_missing_iff (c : Config) (blk : Nat) : 64 * (blk + 1) > c.bufBytes ↔ blk ≥ c.bufBytes / 64 := by
  unfold Config.bufBytes
  omega

/-- Settles O14: the check that fails is `blkCheck`. -/
theorem slotCheckRejects : Obligations.SlotCheckRejects := by
  unfold Obligations.SlotCheckRejects
  refine ⟨fun s blk hm hb hblk => ?_, slot_missing_iff, fun c blk hc => ?_⟩
  · have hcheck : rangeCheck (.compress blk) s = .blk := if_pos hblk
    simpa [hcheck] using execAnswers_rejected (i := .compress blk) hm hb (by simp [hcheck])
  · omega

end Sys2Proof.Machine
end

section
/-! PROOFS. The whole-message digest: DIGEST reads the message and the padding it has just written, block by block, and
this is the MD5 of the message (44_digest.md R200-R205). -/

namespace Sys2Proof.Machine

variable {s t : State}

/-! ### The bytes of the padded message (R134, R202) -/

theorem unwritten_congr {m m' : Memory} {a b : Nat} (h : ∀ x, a ≤ x → x < b → m.read? x = m'.read? x) :
    unwritten m a b = unwritten m' a b := by
  refine List.countP_congr fun x hx => ?_
  obtain ⟨hlo, hhi⟩ := List.mem_range'_1.mp hx
  rw [h x hlo (by omega)]

theorem unwritten_eq_zero {m : Memory} {a b : Nat} (h : ∀ x, a ≤ x → x < b → m.read? x ≠ none) :
    unwritten m a b = 0 := by
  refine List.countP_eq_zero.mpr fun x hx => ?_
  obtain ⟨hlo, hhi⟩ := List.mem_range'_1.mp hx
  simpa using h x hlo (by omega)

/-- From LEN on, the padded message is the padding (R134). -/
theorem paddedByte_of_le {msg : List Byte} {x : Nat} (h : msg.length ≤ x) :
    paddedByte msg x =
      if x = msg.length then 0x80#8
      else if x < 64 * chunkCount msg.length - 8 then 0x00#8
      else (BitVec.ofNat 64 (8 * msg.length)).extractLsb' (8 * (x - (64 * chunkCount msg.length - 8))) 8 :=
  if_neg (Nat.not_lt.mpr h)

/-- The buffer after the padding, in terms of the padded message: `read?_padMessage_cases` for `paddedByte`. -/
theorem read?_padMessage_eq_paddedByte (m : Memory) (msg : List Byte) (x : Nat) :
    (m.padMessage msg.length).read? x =
      if msg.length ≤ x ∧ x < 64 * chunkCount msg.length then some (paddedByte msg x) else m.read? x := by
  by_cases hin : msg.length ≤ x ∧ x < 64 * chunkCount msg.length
  · rw [if_pos hin, paddedByte_of_le hin.1, read?_padMessage_cases, if_neg (by omega)]
    split_ifs <;> rfl
  · rw [if_neg hin, read?_padMessage_outside _ (by omega)]

/-- The padding changes no byte of the message and leaves no byte of the padding unwritten, so a read of the whole padded
message draws for the message alone. -/
theorem unwritten_padMessage (m : Memory) (l : Nat) :
    unwritten (m.padMessage l) 0 (64 * chunkCount l) = unwritten m 0 l := by
  obtain ⟨-, hle⟩ := chunkCount_bounds l
  have hmsg : unwritten (m.padMessage l) 0 l = unwritten m 0 l :=
    unwritten_congr fun x _ hx => read?_padMessage_outside m (.inl hx)
  have hpad : unwritten (m.padMessage l) l (64 * chunkCount l) = 0 := by
    refine unwritten_eq_zero fun x hlo hhi => ?_
    rw [read?_padMessage_cases, if_neg (by omega)]
    split_ifs <;> simp
  rw [unwritten_split _ (Nat.zero_le l) (by omega), hmsg, hpad, Nat.add_zero]

@[simp] theorem length_messageSeen (s : State) : (messageSeen s).length = s.len.toNat := by simp [messageSeen]

theorem getD_messageSeen {x : Nat} (h : x < s.len.toNat) :
    (messageSeen s).getD x 0#8 = byteSeen s.buf s.draws 0 x := by
  simp [messageSeen, List.getD, h]

/-- A byte of the message is seen after the padding as it was before, with the same draws made below it. -/
theorem byteSeen_padMessage_of_lt (m : Memory) (n : Nat) {l x : Nat} (h : x < l) :
    byteSeen (m.padMessage l) n 0 x = byteSeen m n 0 x := by
  have hbelow : unwritten (m.padMessage l) 0 x = unwritten m 0 x :=
    unwritten_congr fun y _ hy => read?_padMessage_outside m (.inl (by omega))
  rw [byteSeen, byteSeen, hbelow, read?_padMessage_outside m (.inl h)]

/-- What the block loop sees in the padded buffer is the padded message (R200). -/
theorem byteSeen_padMessage {x : Nat} (h : x < 64 * chunkCount s.len.toNat) :
    byteSeen (s.buf.padMessage s.len.toNat) s.draws 0 x = paddedByte (messageSeen s) x := by
  by_cases hx : x < s.len.toNat
  · rw [byteSeen_padMessage_of_lt _ _ hx, paddedByte, if_pos (by simpa using hx), getD_messageSeen hx]
  · have hread := read?_padMessage_eq_paddedByte s.buf (messageSeen s) x
    rw [length_messageSeen, if_pos (by omega)] at hread
    exact byteSeen_of_read? hread _ _

/-! ### The block loop (R205) -/

/-- The blocks depend on the bytes they cover only. -/
theorem md5Blocks_congr {f g : Nat → Byte} {n : Nat} (h : ∀ x < 64 * n, f x = g x) : md5Blocks f n = md5Blocks g n := by
  induction n with
  | zero => rfl
  | succ n ih =>
    rw [md5Blocks, md5Blocks, ih fun x hx => h x (by omega), blockAt_congr fun x _ hx => h x (by omega)]

/-- The loop, begun at the IV, is MD5's own on the bytes seen by one read from address 0 up, and makes that read's draws. -/
theorem compressSlots_eq_md5Blocks (h : s.acc = iv) (n : Nat) :
    (compressSlots n s).acc = md5Blocks (byteSeen s.buf s.draws 0) n ∧
      (compressSlots n s).draws = s.draws + unwritten s.buf 0 (64 * n) := by
  induction n with
  | zero => exact ⟨h, rfl⟩
  | succ n ih =>
    obtain ⟨hacc, hdraws⟩ := ih
    have hblock := readBlock_eq s.buf s.draws (Nat.zero_le (64 * n))
    constructor
    · rw [compressSlots, compressEffect_acc, compressSlots_buf, hacc, hdraws, hblock, md5Blocks]
    · rw [compressSlots, compressEffect_draws, compressSlots_buf, hdraws, hblock, Nat.mul_succ]

/-! ### The effect of DIGEST (R200) -/

theorem digestEffect_acc (s : State) : (digestEffect s).acc = md5 (messageSeen s) := by
  rw [digestEffect, finalEffect_acc, (compressSlots_eq_md5Blocks (initEffect_acc _) _).1, md5, length_messageSeen]
  refine md5Blocks_congr fun x hx => ?_
  simpa using byteSeen_padMessage hx

theorem digestEffect_draws (s : State) : (digestEffect s).draws = s.draws + unwritten s.buf 0 s.len.toNat := by
  rw [digestEffect, finalEffect_draws, (compressSlots_eq_md5Blocks (initEffect_acc _) _).2]
  simp [unwritten_padMessage]

/-! ### The completion of DIGEST -/

/-- The completion of the running command leaves one state (R115). -/
theorem eq_of_exec_runs {i : Instr} (hm : s.mover = .engine) (hp : s.pend = some i) (h : exec i s = .next t) :
    t = (effect i s).finish.passTurn := by
  rw [exec_runs ⟨hm, hp⟩] at h
  cases h
  rfl

/-- A completion ends the command and changes no register but BUF, ACC and DIG (R43, R115). -/
theorem sameEngine_of_exec_runs {i : Instr} (hm : s.mover = .engine) (hp : s.pend = some i) (h : exec i s = .next t) :
    State.SameEngine { s with buf := t.buf, acc := t.acc, dig := t.dig, pend := none, busy := false, done := true } t := by
  rw [eq_of_exec_runs hm hp h]
  obtain ⟨hlen, -, -, hovr, herr, hie, -, hcfg, -⟩ := effect_frame i s
  exact ⟨rfl, rfl, rfl, hlen, rfl, rfl, hovr, herr, hie, rfl, hcfg⟩

theorem hostRests_of_exec_runs {i : Instr} (hm : s.mover = .engine) (hp : s.pend = some i) (h : exec i s = .next t) :
    s.HostRests t := by
  rw [eq_of_exec_runs hm hp h]
  exact hostRests_completes i s

section
variable (hm : s.mover = .engine) (hp : s.pend = some .digest) (h : exec .digest s = .next t)
include hm hp h

theorem buf_of_exec_digest : t.buf = s.buf.padMessage s.len.toNat := by
  rw [eq_of_exec_runs hm hp h, State.passTurn_buf, State.finish_buf, effect_buf, if_pos (.inr rfl)]

theorem acc_of_exec_digest : t.acc = md5 (messageSeen s) := by
  rw [eq_of_exec_runs hm hp h, State.passTurn_acc, State.finish_acc, effect, digestEffect_acc]

theorem dig_of_exec_digest : t.dig = md5 (messageSeen s) := by
  rw [eq_of_exec_runs hm hp h, State.passTurn_dig, State.finish_dig, effect, digestEffect_dig, digestEffect_acc]

theorem draws_of_exec_digest : t.draws = s.draws + unwritten s.buf 0 s.len.toNat := by
  rw [eq_of_exec_runs hm hp h, State.passTurn_draws, State.finish_draws, effect, digestEffect_draws]

end

/-! ### The obligations -/

/-- Settles O23: the block loop over the padded buffer is MD5's loop over the padded message. -/
theorem digestComputesMd5 : Obligations.DigestComputesMd5 := by
  unfold Obligations.DigestComputesMd5
  intro s hm hp
  obtain ⟨t, h⟩ : ∃ t, exec .digest s = .next t := ⟨_, exec_eq _ _⟩
  have hengine := sameEngine_of_exec_runs hm hp h
  rw [acc_of_exec_digest hm hp h, dig_of_exec_digest hm hp h] at hengine
  refine ⟨t, h, hengine, hostRests_of_exec_runs hm hp h, draws_of_exec_digest hm hp h, fun x => ?_⟩
  rw [buf_of_exec_digest hm hp h, ← length_messageSeen, read?_padMessage_eq_paddedByte]

/-- Where both hold the same written bytes, two engines see one message, whatever draws each has made. -/
theorem messageSeen_congr {s' : State} (hlen : s.len = s'.len)
    (h : ∀ x < s.len.toNat, ∃ b : Byte, s.buf.read? x = some b ∧ s'.buf.read? x = some b) :
    messageSeen s = messageSeen s' := by
  rw [messageSeen, messageSeen, ← hlen]
  refine List.map_congr_left fun x hx => ?_
  obtain ⟨b, hb, hb'⟩ := h x (List.mem_range.mp hx)
  rw [byteSeen_of_read? hb, byteSeen_of_read? hb']

/-- Settles O24: the digest is a function of the message seen. -/
theorem digestDependsOnMessageOnly : Obligations.DigestDependsOnMessageOnly := by
  unfold Obligations.DigestDependsOnMessageOnly
  intro s s' t t' hm hp hm' hp' hlen hbytes h h'
  rw [dig_of_exec_digest hm hp h, dig_of_exec_digest hm' hp' h', messageSeen_congr hlen hbytes]

/-- Settles O25: the buffer afterwards is `Memory.padMessage`, each range one of its cases. -/
theorem digestBufferAfterwards : Obligations.DigestBufferAfterwards := by
  unfold Obligations.DigestBufferAfterwards
  intro s t hm hp h
  obtain ⟨-, hle⟩ := chunkCount_bounds s.len.toNat
  rw [buf_of_exec_digest hm hp h]
  refine ⟨fun x hx => read?_padMessage_outside _ (.inl hx), fun x hx => read?_padMessage_outside _ (.inr hx), ?_,
    fun x hlo hhi => ?_, fun j hj => ?_⟩
  · rw [read?_padMessage_cases, if_neg (by omega), if_pos rfl]
  · rw [read?_padMessage_cases, if_neg (by omega), if_neg (by omega), if_pos hhi]
  · rw [read?_padMessage_cases, if_neg (by omega), if_neg (by omega), if_neg (by omega), Nat.add_sub_cancel_left]

/-- Settles O27: FINAL, the last part of DIGEST, leaves ACC as it is, and COMPRESS starts from ACC. -/
theorem digestLeftInAcc : Obligations.DigestLeftInAcc := by
  unfold Obligations.DigestLeftInAcc
  intro s t hm hp h
  have hacc : t.acc = t.dig := (acc_of_exec_digest hm hp h).trans (dig_of_exec_digest hm hp h).symm
  refine ⟨hacc, fun blk u hu => ?_⟩
  have hcompress := acc_of_exec_compress (mover_cons rfl) rfl hu
  rwa [hacc] at hcompress

end Sys2Proof.Machine
end

section
/-! PROOFS. DIGEST against the sequence PAD; INIT; COMPRESS 0 .. N-1; FINAL (44_digest.md R201): the effect of DIGEST is the
effects of the sequence, one after the other, and a command that is waited for has its own effect and no other on the data. -/

namespace Sys2Proof.Machine

variable {s t : State} {i : Instr}

/-! ### What effects compute on -/

/-- `t` has the data of `s`: all that the range checks and the effects read, the draw counter included. -/
structure State.SameData (s t : State) : Prop where
  buf : t.buf = s.buf
  acc : t.acc = s.acc
  dig : t.dig = s.dig
  len : t.len = s.len
  cfg : t.cfg = s.cfg
  draws : t.draws = s.draws

theorem State.SameData.trans {u : State} (h : s.SameData t) (h' : t.SameData u) : s.SameData u :=
  ⟨h'.buf.trans h.buf, h'.acc.trans h.acc, h'.dig.trans h.dig, h'.len.trans h.len, h'.cfg.trans h.cfg,
    h'.draws.trans h.draws⟩

section
variable (h : s.SameData t)
include h

theorem sameData_padEffect : (padEffect s).SameData (padEffect t) := by
  constructor <;> simp [h.buf, h.acc, h.dig, h.len, h.cfg, h.draws]

theorem sameData_initEffect : (initEffect s).SameData (initEffect t) := by
  constructor <;> simp [h.buf, h.dig, h.len, h.cfg, h.draws]

theorem sameData_compressEffect (blk : Nat) : (compressEffect blk s).SameData (compressEffect blk t) := by
  constructor <;> simp [h.buf, h.acc, h.dig, h.len, h.cfg, h.draws]

theorem sameData_compressSlots (n : Nat) : (compressSlots n s).SameData (compressSlots n t) := by
  induction n with
  | zero => exact h
  | succ n ih => exact sameData_compressEffect ih n

theorem sameData_finalEffect : (finalEffect s).SameData (finalEffect t) := by
  constructor <;> simp [h.buf, h.acc, h.len, h.cfg, h.draws]

theorem sameData_digestEffect : (digestEffect s).SameData (digestEffect t) := by
  rw [digestEffect, digestEffect, h.len]
  exact sameData_finalEffect (sameData_compressSlots (sameData_initEffect (sameData_padEffect h)) _)

/-- States with the same data are taken to states with the same data, whatever command completes (R119). -/
theorem sameData_effect (i : Instr) : (effect i s).SameData (effect i t) := by
  cases i with
  | nop => exact h
  | digest => exact sameData_digestEffect h
  | pad => exact sameData_padEffect h
  | init => exact sameData_initEffect h
  | compress blk => exact sameData_compressEffect h blk
  | final => exact sameData_finalEffect h

end

/-! ### Effects one after the other -/

/-- The effects of the commands of a list, the first one first. -/
def effects : List Instr → State → State
  | [], s => s
  | i :: is, s => effects is (effect i s)

theorem effects_append (is js : List Instr) (s : State) : effects (is ++ js) s = effects js (effects is s) := by
  induction is generalizing s with
  | nil => rfl
  | cons i is ih => exact ih _

theorem sameData_effects (h : s.SameData t) (is : List Instr) : (effects is s).SameData (effects is t) := by
  induction is generalizing s t with
  | nil => exact h
  | cons i is ih => exact ih (sameData_effect h i)

/-- The sequence of R201, for a message of n blocks. -/
def digestSequence (n : Nat) : List Instr := .pad :: .init :: (List.range n).map .compress ++ [.final]

/-- The block loop is the effects of COMPRESS 0 .. n-1 (R205). -/
theorem effects_compress_range (n : Nat) (s : State) :
    effects ((List.range n).map .compress) s = compressSlots n s := by
  induction n with
  | zero => rfl
  | succ n ih =>
    rw [List.range_succ, List.map_append, effects_append, ih]
    rfl

/-- The effect of DIGEST is the effects of its sequence (R200, R201). -/
theorem effects_digestSequence (s : State) :
    effects (digestSequence (chunkCount s.len.toNat)) s = digestEffect s := by
  simp only [digestSequence, effects_append, effects, effects_compress_range, effect, digestEffect]

/-! ### Commands waited for -/

/-- A command presented while idle starts: it is not NOP, and it passes its range check (R114). -/
def State.starts (i : Instr) (s : State) : Prop := i ≠ .nop ∧ rangeCheck i s = .none

/-- Whether a command starts depends on LEN and the configuration alone, which no effect changes (R43, R111). -/
theorem starts_after {j : Instr} (h : (effect i s).SameData t) (hj : s.starts j) : t.starts j := by
  obtain ⟨hlen, -, -, -, -, -, -, hcfg, -⟩ := effect_frame i s
  obtain ⟨hnop, hc⟩ := hj
  exact ⟨hnop, (rangeCheck_congr j (h.len.trans hlen) (h.cfg.trans hcfg)).trans hc⟩

/-- Every command of the sequence passes its range check where the padded message fits (R133, R180). -/
theorem starts_of_mem_digestSequence (hfit : 64 * chunkCount s.len.toNat ≤ s.cfg.bufBytes)
    (h : i ∈ digestSequence (chunkCount s.len.toNat)) : s.starts i := by
  have hslots : i = .pad ∨ i = .init ∨ (∃ blk < chunkCount s.len.toNat, i = .compress blk) ∨ i = .final := by
    simpa [digestSequence, eq_comm] using h
  obtain rfl | rfl | ⟨blk, hblk, rfl⟩ | rfl := hslots
  · exact ⟨by decide, rangeCheck_eq_none (fun _ => hfit) (fun _ h => by cases h)⟩
  · exact ⟨by decide, rfl⟩
  · exact ⟨by simp, rangeCheck_eq_none (fun _ => hfit) (fun _ h => by cases h; omega)⟩
  · exact ⟨by decide, rfl⟩

/-- The state between the two steps of `runCommand`: the command is accepted, and the engine's turn is next (R114). -/
def State.awaiting (i : Instr) (s : State) : State :=
  State.answer (.write .ok)
    { s with turns := [.host, .engine], err := .none, done := false, pend := some i, busy := true }

theorem sameData_awaiting (i : Instr) (s : State) : s.SameData (s.awaiting i) := by constructor <;> rfl

theorem runCommand_eq (hb : s.busy = false) (hi : s.starts i) :
    runCommand i s = some (effect i (s.awaiting i)).finish.passTurn := by
  obtain ⟨hnop, hc⟩ := hi
  have hcheck : rangeCheck i { s with turns := [.host, .engine] } = rangeCheck i s := rangeCheck_congr i rfl rfl
  have haccept : exec i { s with turns := [.host, .engine] } = .next (s.awaiting i) :=
    exec_starts (mover_cons rfl) hb hnop (hcheck.trans hc)
  have hcomplete : exec i (s.awaiting i) = .next (effect i (s.awaiting i)).finish.passTurn :=
    exec_runs ⟨mover_cons rfl, rfl⟩
  simp only [runCommand, haccept, hcomplete]

/-- No command is running, and the last one completed without an error (R115). -/
structure State.Completed (s : State) : Prop where
  busy : s.busy = false
  done : s.done = true
  err : s.err = .none

/-- A command waited for leaves the data of its effect: neither its acceptance nor its completion touches any other. -/
theorem runCommand_starts (hb : s.busy = false) (hi : s.starts i) :
    ∃ t, runCommand i s = some t ∧ (effect i s).SameData t ∧ t.Completed := by
  have hdata := sameData_effect (sameData_awaiting i s) i
  obtain ⟨-, -, -, -, herr, -⟩ := effect_frame i (s.awaiting i)
  refine ⟨_, runCommand_eq hb hi, ?_, rfl, rfl, herr⟩
  exact ⟨hdata.buf, hdata.acc, hdata.dig, hdata.len, hdata.cfg, hdata.draws⟩

/-- Commands waited for one after the other leave the data of their effects. -/
theorem runCommands_start (is : List Instr) (hb : s.busy = false) (his : ∀ j ∈ i :: is, s.starts j) :
    ∃ t, runCommands (i :: is) s = some t ∧ (effects (i :: is) s).SameData t ∧ t.Completed := by
  induction is generalizing i s with
  | nil =>
    obtain ⟨t, hrun, ht, hend⟩ := runCommand_starts hb (his i List.mem_cons_self)
    exact ⟨t, by rw [runCommands, hrun, Option.bind_some, runCommands], ht, hend⟩
  | cons j js ih =>
    obtain ⟨hi, hrest⟩ := List.forall_mem_cons.mp his
    obtain ⟨u, hrun, hu, huend⟩ := runCommand_starts hb hi
    obtain ⟨t, hruns, ht, hend⟩ := ih huend.busy fun k hk => starts_after hu (hrest k hk)
    exact ⟨t, by rw [runCommands, hrun, Option.bind_some, hruns], (sameData_effects hu (j :: js)).trans ht, hend⟩

/-- Settles O26: both runs leave the data of `digestEffect`, the sequence because its effects are that effect. Both
begin at one draw counter and read in one order, so the model's runs agree on unwritten bytes as well; R206 leaves those
free, hence the hypothesis that is not used. -/
theorem digestEqualsItsSequence : Obligations.DigestEqualsItsSequence := by
  unfold Obligations.DigestEqualsItsSequence
  intro s _ hb hfit _
  have hstarts : s.starts .digest := ⟨by decide, rangeCheck_eq_none (fun _ => hfit) (fun _ h => by cases h)⟩
  obtain ⟨u, hrun, hu, huend⟩ := runCommand_starts hb hstarts
  obtain ⟨v, hruns, hv, hvend⟩ := runCommands_start _ hb fun i hi => starts_of_mem_digestSequence hfit hi
  change (effects (digestSequence _) s).SameData v at hv
  rw [effects_digestSequence] at hv
  exact ⟨u, v, hrun, hruns, hu.buf.trans hv.buf.symm, hu.acc.trans hv.acc.symm, hu.dig.trans hv.dig.symm,
    hu.draws.trans hv.draws.symm, huend.busy, huend.done, huend.err, hvend.busy, hvend.done, hvend.err⟩

end Sys2Proof.Machine
end

section
/-! PROOFS. No step stops, and what raises the interrupt (60_exceptions.md R220, R223; 70_reset_and_hazards.md R259). -/

namespace Sys2Proof.Machine

/-- Settles O6: a step is one of the cases of `StepTo`, and every meaning is the life of its command. -/
theorem everyStepAnswersNext : Obligations.EveryStepAnswersNext := by
  unfold Obligations.EveryStepAnswersNext
  exact ⟨fun s => (step_stepTo s).imp fun _ h => h.1, fun i s => ⟨_, exec_eq i s⟩⟩

/-- The interrupt is DONE with IE (R39, R223). -/
theorem irq_eq_true_iff (s : State) : s.irq = true ↔ s.done = true ∧ s.ie = true := by
  rw [State.irq, Bool.and_eq_true]

/-- Settles O54: a completion and a CMD write that ends in its own write leave IE as it is, a CTRL write leaves DONE as it
is, and no other step raises either of the two. -/
theorem interruptSources : Obligations.InterruptSources := by
  unfold Obligations.InterruptSources
  intro s t h hs ht
  have hlow : ¬ (s.done = true ∧ s.ie = true) := by rw [← irq_eq_true_iff, hs]; decide
  obtain ⟨hdone, hie⟩ := (irq_eq_true_iff t).mp ht
  cases engineStep_of_step h with
  | completes i hm hp =>
    obtain ⟨hm, hp⟩ := completion_cause hm hp
    exact .inl ⟨hm, hp, by simpa [effect_frame i s] using hie⟩
  | commandEnds w hl hb hw => exact .inr (.inl ⟨hb, hie, w, hl, hw⟩)
  | writesCtrl w hl => exact .inr (.inr ⟨hdone, w, hl, hie⟩)
  | resets hm => cases hdone
  | commandStarts w i hl hb hw hi hc => cases hdone
  | writesStatus w hl =>
    obtain ⟨hd, -⟩ : s.done = true ∧ w.getLsbD 1 = false := by simpa using hdone
    exact absurd ⟨hd, hie⟩ hlow
  | rests hsame => exact absurd ⟨hsame.done ▸ hdone, hsame.ie ▸ hie⟩ hlow
  | drops | writesLen | writesAcc | writesBuf => exact absurd ⟨hdone, hie⟩ hlow

end Sys2Proof.Machine
end

section
/-! PROOFS. What a step with the reset input low leaves (70_reset_and_hazards.md R250, R251; 10_state.md R44). -/

namespace Sys2Proof.Machine

/-- No bus transaction is answered while rst_n is low (R250). -/
theorem hostRests_assertReset (s : State) : s.HostRests s.assertReset :=
  ⟨s.assertReset_responses, s.assertReset_script, s.assertReset_turns⟩

/-- No buffer byte is left written (R251). -/
theorem assertReset_read? (s : State) (x : Nat) : s.assertReset.buf.read? x = none := by
  rw [State.assertReset_buf, Memory.read?_nil]

/-- Settles O42: the step leads to `assertReset`, whose fields are those of R251. -/
theorem resetInputResets : Obligations.ResetInputResets := by
  unfold Obligations.ResetInputResets
  intro s hm
  exact ⟨s.assertReset, step_resets hm, s.assertReset_pend, s.assertReset_busy, s.assertReset_done, s.assertReset_ovr,
    s.assertReset_err, s.assertReset_ie, s.assertReset_len, s.assertReset_acc, s.assertReset_dig, assertReset_read? s,
    s.assertReset_cfg, hostRests_assertReset s⟩

end Sys2Proof.Machine
end
